-- ==== Sys2Proof/Word.lean ====
section
/-! DEFINITION. The widths of the block's values (00_scope.md R7, R8; 30_encoding.md formats table) and the word in
which an operation of spec/opcode_table.json is written. -/

namespace Sys2Proof

/-- One byte of the outbound stream `tx` (R32). -/
abbrev Byte := BitVec 8

/-- A sense word, format SENSE: the four lines read at one multiplexer address (R60). -/
abbrev Sense := BitVec 4

/-- A row vector, format ROW: one bit for each of the 32 logical rows, 1 = contact closed (R61). -/
abbrev RowBits := BitVec 32

/-- A debounce bitmap: 256 sent-flags (R22, R23). -/
abbrev FlagBits := BitVec 256

/-- A logical row index, 0..31 (R62). -/
abbrev Row := BitVec 5

/-- A row pair index, 0..15: the make row `2p` and the break row `2p+1` of the same keys (R62). -/
abbrev RowPair := BitVec 4

/-- A column index, 0..7 (R7). -/
abbrev Column := BitVec 3

/-- A multiplexer address, 0..7 (R7, R26). -/
abbrev MuxAddr := BitVec 3

/-- A transition descriptor, format TRANS: `closed` in bit 8, row in bits 7..3, column in bits 2..0 (R64). -/
abbrev TransWord := BitVec 9

/-- A message written as one 24-bit number, byte 0 (status) most significant (section 5 of 30_encoding.md, D31). -/
abbrev MessageWord := BitVec 24

/-- An operation's word as spec/opcode_table.json writes it: its bits as one number, bit 0 least significant, and how
many bits the row has in whole bytes (8 for PHASE, 16 for TRANS, 24 for MIDI). -/
structure RawWord where
  nbits : Nat
  bits : Nat
  deriving DecidableEq, Repr

end Sys2Proof
end

