-- ==== Sys2Proof/Config.lean ====
section
/-! DEFINITION. The implementation parameters of 00_scope.md section 4 at their source values (D28), and the free
values: the levels the environment presents at the input ports, which the spec puts under no law (R9, R112, R161). -/

namespace Sys2Proof.Config

/-- KEY_SPLIT: keys at or above it are on the upper keyboard (R131). -/
abbrev keySplit : Nat := 64

/-- PITCH_BASE: the pitch of folded key 0 (R133). -/
abbrev pitchBase : Nat := 36

/-- PITCH_MIN: the lower clamp bound, preserved although it changes no value (R133, I8). -/
abbrev pitchMin : Nat := 0

/-- PITCH_MAX: the upper clamp bound (R133). -/
abbrev pitchMax : Nat := 96

/-- CH_UPPER: the channel of the upper keyboard (R131). -/
abbrev chUpper : Byte := 0

/-- CH_LOWER: the channel of the lower keyboard (R131). -/
abbrev chLower : Byte := 1

/-- VEL_ON: the note-on velocity (R151). -/
abbrev velOn : Byte := 0x7F

/-- VEL_OFF: the note-off velocity (R152). -/
abbrev velOff : Byte := 0x00

/-- INIT_COLUMN: the active column after reset (R24, the spec's decision D7). -/
abbrev initColumn : Column := 0

/-- FREE VALUE (log entry 1): the level of the `rst` input at step `n`, where no level is scheduled. -/
opaque freeRst : Nat → Bool

/-- FREE VALUE (log entry 1): the level of the `tickReq` input at step `n`, where no level is scheduled; the `draw_1()`
of R161. -/
opaque freeTickReq : Nat → Bool

/-- FREE VALUE (log entries 1 and 6): the levels of the four sense lines at step `n`, where none are scheduled; the
`draw_4()` of R112. -/
opaque freeSense : Nat → Sense

end Sys2Proof.Config
end

