-- ==== Sys2Proof/Syntax.lean ====
section
/-! DEFINITION. The sequencer phases and the block's operations, one constructor for each row of
spec/opcode_table.json. -/

namespace Sys2Proof

/-- The sequencer phase (R30); its 3-bit codes are in Decode.lean (R71). -/
inductive Phase where
  | idle | select | setAddr | settle | read | diff | handle | advance
  deriving DecidableEq, Repr

/-- The operations of the block (spec/opcode_table.json). The eight PHASE operations take their operands from the
state. A TRANS operation carries the free bits of its descriptor `krrrrbccc`: the row pair and the column (R62, R65).
A MIDI operation carries the two arguments of `sendNote` (R150). -/
inductive Instr where
  /-- IDLE_WAIT (R161). -/
  | idleWait
  /-- SELECT_COLUMN (R100). -/
  | selectColumn
  /-- SET_MUX_ADDR (R110). -/
  | setMuxAddr
  /-- SETTLE_WAIT (R111). -/
  | settleWait
  /-- READ_SENSE (R112). -/
  | readSense
  /-- DETECT_CHANGES (R120). -/
  | detectChanges
  /-- HANDLE_TRANSITION (R121). -/
  | handleTransition
  /-- ADVANCE_COLUMN (R102). -/
  | advanceColumn
  /-- TR_MAKE_CLOSE (R138). -/
  | trMakeClose (pair : RowPair) (col : Column)
  /-- TR_MAKE_OPEN (R139). -/
  | trMakeOpen (pair : RowPair) (col : Column)
  /-- TR_BREAK_CLOSE (R136). -/
  | trBreakClose (pair : RowPair) (col : Column)
  /-- TR_BREAK_OPEN (R137). -/
  | trBreakOpen (pair : RowPair) (col : Column)
  /-- MSG_NOTE_ON (R151). -/
  | msgNoteOn (channel pitch : Byte)
  /-- MSG_NOTE_OFF (R152). -/
  | msgNoteOff (channel pitch : Byte)
  deriving DecidableEq, Repr

end Sys2Proof
end

