-- ==== Sys2Proof/WellFormed.lean ====
section
/-! DEFINITION. Which operations are well formed: the declared domain of `sendNote` (R150). Every PHASE operation and
every transition is well formed (R65, R71: no reserved code, no illegal descriptor). -/

namespace Sys2Proof

/-- The declared domain of the encoder: channel 0 or 1, pitch 0..127 (R150). -/
def inEncoderDomain (channel pitch : Byte) : Bool :=
  decide (channel.toNat ≤ 1) && decide (pitch.toNat ≤ 127)

/-- Well-formedness of an operation. -/
def Instr.wellFormed : Instr → Bool
  | .idleWait => true
  | .selectColumn => true
  | .setMuxAddr => true
  | .settleWait => true
  | .readSense => true
  | .detectChanges => true
  | .handleTransition => true
  | .advanceColumn => true
  | .trMakeClose _ _ => true
  | .trMakeOpen _ _ => true
  | .trBreakClose _ _ => true
  | .trBreakOpen _ _ => true
  | .msgNoteOn channel pitch => inEncoderDomain channel pitch
  | .msgNoteOff channel pitch => inEncoderDomain channel pitch

end Sys2Proof
end

