-- ==== Sys2Proof/Decode.lean ====
section
/-! DEFINITION. The phase codes (R71), the decoder of the three formats PHASE, TRANS and MIDI (R64 to R71), the reader
of a byte stream of messages (R70), and the encoder. -/

namespace Sys2Proof

/-- Why a word is no operation. Every reason is raised by the decoder and is safe: the word has no meaning in spec/. -/
inductive DecodeError where
  /-- The number of bits is none of the three formats' (8, 16, 24). -/
  | noSuchFormat (nbits : Nat)
  /-- The number does not fit the format: no 3-bit phase code, no 9-bit descriptor, no 24-bit message (R64, R71, D31). -/
  | tooWide (nbits bits : Nat)
  /-- The three bytes are neither a note-on nor a note-off message (R66, R67, R69). -/
  | noSuchMessage (m : MessageWord)
  /-- The byte stream ends before the three bytes of a message (R70). -/
  | messageCut (bytes : List Byte)
  deriving DecidableEq, Repr

/-- The code of a phase (R71). -/
def Phase.code : Phase → BitVec 3
  | .idle => 0
  | .select => 1
  | .setAddr => 2
  | .settle => 3
  | .read => 4
  | .diff => 5
  | .handle => 6
  | .advance => 7

/-- The phase of a code; all eight codes are used (R71). -/
def Phase.ofCode (c : BitVec 3) : Phase :=
  match c.toNat with
  | 0 => .idle
  | 1 => .select
  | 2 => .setAddr
  | 3 => .settle
  | 4 => .read
  | 5 => .diff
  | 6 => .handle
  | _ => .advance

/-- The operation a step in a phase performs (R71). -/
def Phase.operation : Phase → Instr
  | .idle => .idleWait
  | .select => .selectColumn
  | .setAddr => .setMuxAddr
  | .settle => .settleWait
  | .read => .readSense
  | .diff => .detectChanges
  | .handle => .handleTransition
  | .advance => .advanceColumn

/-- The packing of a transition `(row, column, closed)`: `T = closed*256 + row*8 + column` (R64). -/
def packTrans (row : Row) (col : Column) (closed : Bool) : TransWord :=
  BitVec.ofNat 9 (closed.toNat * 256 + row.toNat * 8 + col.toNat)

/-- The operation a descriptor selects, by its contact type `T[3]` and its new state `T[8]` (R65). -/
def decodeTrans (t : TransWord) : Instr :=
  let pair : RowPair := t.extractLsb' 4 4
  let col : Column := t.extractLsb' 0 3
  match t.getLsbD 3, t.getLsbD 8 with
  | false, true => .trMakeClose pair col
  | false, false => .trMakeOpen pair col
  | true, true => .trBreakClose pair col
  | true, false => .trBreakOpen pair col

/-- The message a 24-bit number stands for, by the match and mask pairs of section 5 of 30_encoding.md (R66, R67). -/
def decodeMessage (m : MessageWord) : Except DecodeError Instr :=
  let channel : Byte := (m.extractLsb' 16 1).setWidth 8
  let pitch : Byte := (m.extractLsb' 8 7).setWidth 8
  if m &&& 0xFE80FF#24 = 0x90007F#24 then .ok (.msgNoteOn channel pitch)
  else if m &&& 0xFE80FF#24 = 0x800000#24 then .ok (.msgNoteOff channel pitch)
  else .error (.noSuchMessage m)

/-- The operation a word of spec/opcode_table.json stands for. -/
def decodeWord (w : RawWord) : Except DecodeError Instr :=
  if w.nbits = 8 then
    if w.bits < 8 then .ok (Phase.ofCode (BitVec.ofNat 3 w.bits)).operation else .error (.tooWide 8 w.bits)
  else if w.nbits = 16 then
    if w.bits < 512 then .ok (decodeTrans (BitVec.ofNat 9 w.bits)) else .error (.tooWide 16 w.bits)
  else if w.nbits = 24 then
    if w.bits < 16777216 then decodeMessage (BitVec.ofNat 24 w.bits) else .error (.tooWide 24 w.bits)
  else .error (.noSuchFormat w.nbits)

/-- The instruction of the opcode table's word, or none where the decoder refuses it. -/
def decodeTableWord (nbits w : Nat) : Option Instr :=
  match decodeWord ⟨nbits, w⟩ with
  | .ok i => some i
  | .error _ => none

/-- The 24-bit form of three bytes: byte 0 most significant (D31). -/
def packMessage (status pitch velocity : Byte) : MessageWord :=
  BitVec.ofNat 24 (status.toNat * 65536 + pitch.toNat * 256 + velocity.toNat)

/-- The first message of a byte stream, and the rest: every message is exactly three bytes (R70). -/
def decodeBytes : List Byte → Except DecodeError (Instr × List Byte)
  | status :: pitch :: velocity :: rest =>
    match decodeMessage (packMessage status pitch velocity) with
    | .ok i => .ok (i, rest)
    | .error e => .error e
  | bytes => .error (.messageCut bytes)

/-- All the messages of a byte stream, in order: message `i` is its bytes `3i`, `3i+1`, `3i+2` (R70). -/
def readMessages : List Byte → Except DecodeError (List Instr)
  | [] => .ok []
  | status :: pitch :: velocity :: rest =>
    match decodeMessage (packMessage status pitch velocity), readMessages rest with
    | .ok i, .ok is => .ok (i :: is)
    | .error e, _ => .error e
    | .ok _, .error e => .error e
  | bytes => .error (.messageCut bytes)

/-- The three bytes of a note-on message: `0x90 | channel`, pitch, `0x7F` (R66). -/
def noteOnBytes (channel pitch : Byte) : List Byte := [0x90 ||| channel, pitch, Config.velOn]

/-- The three bytes of a note-off message: `0x80 | channel`, pitch, `0x00` (R67). -/
def noteOffBytes (channel pitch : Byte) : List Byte := [0x80 ||| channel, pitch, Config.velOff]

/-- The phase operations' words: the 3-bit code in one byte (R71). -/
def encodePhase (p : Phase) : RawWord := ⟨8, p.code.toNat⟩

/-- The transitions' words: the 9-bit descriptor in two bytes; the row is `2*pair` for a make contact and `2*pair + 1`
for a break contact (R62, R64). -/
def encodeTrans (pair : RowPair) (brk closed : Bool) (col : Column) : RawWord :=
  ⟨16, closed.toNat * 256 + (2 * pair.toNat + brk.toNat) * 8 + col.toNat⟩

/-- The messages' words: `M = byte0*65536 + byte1*256 + byte2` (D31). -/
def encodeMessage (bytes : List Byte) : RawWord :=
  ⟨24, bytes.foldl (fun m b => m * 256 + b.toNat) 0⟩

/-- The word of an operation, as spec/opcode_table.json numbers its bits. -/
def encode : Instr → RawWord
  | .idleWait => encodePhase .idle
  | .selectColumn => encodePhase .select
  | .setMuxAddr => encodePhase .setAddr
  | .settleWait => encodePhase .settle
  | .readSense => encodePhase .read
  | .detectChanges => encodePhase .diff
  | .handleTransition => encodePhase .handle
  | .advanceColumn => encodePhase .advance
  | .trMakeClose pair col => encodeTrans pair false true col
  | .trMakeOpen pair col => encodeTrans pair false false col
  | .trBreakClose pair col => encodeTrans pair true true col
  | .trBreakOpen pair col => encodeTrans pair true false col
  | .msgNoteOn channel pitch => encodeMessage (noteOnBytes channel pitch)
  | .msgNoteOff channel pitch => encodeMessage (noteOffBytes channel pitch)

end Sys2Proof
end

