-- ==== Sys2Proof/Machine/State.lean ====
section
/-! DEFINITION. The state of the block (10_state.md R20 to R32), the model's own fields for its environment, the
reasons a step can stop, and the state after reset (70_reset_and_hazards.md R201). -/

namespace Sys2Proof.Machine

/-- The levels at the three input ports during one step (10_state.md R36). -/
structure PortLevels where
  /-- Reset: `true` is asserted, the state R201 speaks of. DESIGN CHOICE (log entry 2): the spec gives the pin no
  polarity (91_not_in_source.md N2), so this is the logical level, not the pin's. -/
  rst : Bool
  /-- Request to start a tick; looked at only in phase IDLE (R161). -/
  tickReq : Bool
  /-- The four sense lines, 1 = contact closed; looked at only in phase READ (R112, R117). -/
  sense : Sense
  deriving DecidableEq, Repr

/-- The state. The first twelve fields are the tuple of R20, field by field; the last three are the model's own. -/
structure State where
  /-- The sequencer phase (R30). -/
  phase : Phase
  /-- The column the current or next tick scans (R24). -/
  activeColumn : Column
  /-- Output: the column drive lines (R25). -/
  colDrive : BitVec 8
  /-- Output: the multiplexer select lines (R26). -/
  muxAddr : MuxAddr
  /-- The next multiplexer address to be sampled, 0..8 (R27). -/
  addrCur : BitVec 4
  /-- The row vector being assembled (R28). -/
  rowVec : RowBits
  /-- The rows still to be handled in this tick (R29). -/
  changed : RowBits
  /-- The column snapshots (R21). -/
  snap : Vector RowBits 8
  /-- The note-on-sent bitmap (R22). -/
  onSent : FlagBits
  /-- The note-off-sent bitmap (R23). -/
  offSent : FlagBits
  /-- Output: the sticky clamp flag (R31). -/
  clampSeen : Bool
  /-- Output: the outbound byte stream, oldest byte first (R32). -/
  tx : List Byte
  /-- MODEL'S OWN (log entry 1): the port levels the environment presents at the coming steps, the first at this one. -/
  inputs : List PortLevels
  /-- MODEL'S OWN (log entry 1): how many steps were taken, the index of the free port levels. -/
  steps : Nat
  /-- MODEL'S OWN (log entry 3): an operation presented at the direct entry to the mapper or the encoder (R150, R167),
  which the next step runs in place of the phase's operation. -/
  entry : Option RawWord
  deriving DecidableEq, Repr

/-- The faults of the block: none. "The block raises no exception and records no fault" (R180); no step can raise one,
which is the spec's own statement and so safe. -/
inductive Fault where
  deriving DecidableEq, Repr

/-- Why a step is refused. No step of the block's own refuses; both reasons concern a word presented at `entry`. -/
inductive Refusal where
  /-- Raised by exec's arm of an operation that has no meaning yet. Safe. No arm raises it. -/
  | notModelled (mnemonic : String)
  /-- Raised by the encoder given a channel above 1 or a pitch above 127: "a model of the encoder alone that is given
  a channel above 1 or a pitch above 127 refuses it" (R150). Safe. -/
  | outsideEncoderDomain (channel pitch : Byte)
  /-- Raised by a step whose word at `entry` is no operation of the formats PHASE, TRANS and MIDI (R64 to R71). Safe. -/
  | noSuchOperation (w : RawWord)
  deriving DecidableEq, Repr

/-- The machine right after reset: the table of R201. The model's own fields: no port level is scheduled, no step was
taken, nothing is presented at the direct entry (log entries 1 and 3). -/
def State.reset : State where
  phase := .idle
  activeColumn := Config.initColumn
  colDrive := 0x01
  muxAddr := 0
  addrCur := 0
  rowVec := 0x00000000
  changed := 0x00000000
  snap := Vector.replicate 8 0x00000000
  onSent := 0
  offSent := 0
  clampSeen := false
  tx := []
  inputs := []
  steps := 0
  entry := none

end Sys2Proof.Machine
end

