-- ==== Sys2Proof/Machine/Operands.lean ====
section
/-! DEFINITION. The key identity, "a pure function of (row, column)" (R33; R130 to R134), and the fields of a row index
(R62). -/

namespace Sys2Proof.Machine

/-- The contact a row stands for (R134). -/
inductive Contact where
  | make | brk
  deriving DecidableEq, Repr

/-- The keyboard a key belongs to (R131). -/
inductive Keyboard where
  | lower | upper
  deriving DecidableEq, Repr

/-- Row parity encodes the contact type: even is make, odd is break (R134). -/
def contactOf (r : Row) : Contact := if r.getLsbD 0 then .brk else .make

/-- The row pair index `r[4:1] = r / 2` (R62). -/
def pairOf (r : Row) : RowPair := r.extractLsb' 1 4

/-- The key number `8 * (row / 2) + column`, of the row pair `row / 2` (R130). -/
def keyOfPair (p : RowPair) (c : Column) : Nat := 8 * p.toNat + c.toNat

/-- The key number of a cell of the matrix (R130). -/
def keyOf (r : Row) (c : Column) : Nat := 8 * (r.toNat / 2) + c.toNat

/-- The keyboard of a key: upper at or above KEY_SPLIT (R131). -/
def keyboardOf (key : Nat) : Keyboard := if key ≥ Config.keySplit then .upper else .lower

/-- The channel of a key (R131). -/
def channelOf (key : Nat) : Byte :=
  match keyboardOf key with
  | .upper => Config.chUpper
  | .lower => Config.chLower

/-- The folded index `key mod 64` (R132). -/
def foldOf (key : Nat) : Nat := key % 64

/-- The pitch before the clamp, `36 + idx` (R133). -/
def rawPitch (key : Nat) : Nat := Config.pitchBase + foldOf key

/-- The pitch, clamped to PITCH_MIN..PITCH_MAX unconditionally (R133). -/
def pitchOf (key : Nat) : Byte := BitVec.ofNat 8 (min (max (rawPitch key) Config.pitchMin) Config.pitchMax)

end Sys2Proof.Machine
end

