-- ==== Sys2Proof/Machine/Flags.lean ====
section
/-! DEFINITION. The flags: the two sent-flags of a key (R22, R23, R43) and the sticky clamp flag (R31, R142). -/

namespace Sys2Proof.Machine

/-- `v[i] <- b` on a value of any width (R9). -/
def setBit {n : Nat} (v : BitVec n) (i : Nat) (b : Bool) : BitVec n :=
  if b then v ||| (1#n <<< i) else v &&& ~~~(1#n <<< i)

/-- `onSent[key] <- b` (R43). -/
def State.setOnSent (s : State) (key : Nat) (b : Bool) : State := { s with onSent := setBit s.onSent key b }

/-- `offSent[key] <- b` (R43). -/
def State.setOffSent (s : State) (key : Nat) (b : Bool) : State := { s with offSent := setBit s.offSent key b }

/-- Read `onSent[key]` (R43). -/
def State.onSentAt (s : State) (key : Nat) : Bool := s.onSent.getLsbD key

/-- Read `offSent[key]` (R43). -/
def State.offSentAt (s : State) (key : Nat) : Bool := s.offSent.getLsbD key

/-- The clamp monitor: `if raw > 96 then clampSeen <- 1` (R135, R142). -/
def State.monitorClamp (s : State) (key : Nat) : State :=
  { s with clampSeen := s.clampSeen || decide (rawPitch key > Config.pitchMax) }

end Sys2Proof.Machine
end

