-- ==== Sys2Proof/Machine/Ops.lean ====
section
/-! DEFINITION. The operations that several meanings share: the environment's port levels, the drive lines, the sense
packing, the snapshots, the change iterator, the emission of messages and the debounce FSM's `handleTransition`.
The block takes no exception and returns from none (R180, R183), so neither has an operation here. -/

namespace Sys2Proof.Machine

/-- What a meaning answers. -/
abbrev Result := Host.Outcome State Fault Refusal

/-! ### The environment -/

/-- The port levels at step `n` where none are scheduled: free values. -/
def freeLevels (n : Nat) : PortLevels := ⟨Config.freeRst n, Config.freeTickReq n, Config.freeSense n⟩

/-- The port levels the environment presents `n` steps from now (R36). -/
def State.levelsAt (s : State) (n : Nat) : PortLevels :=
  match s.inputs[n]? with
  | some l => l
  | none => freeLevels (s.steps + n)

/-- The port levels at this step (R36). -/
def State.levels (s : State) : PortLevels := s.levelsAt 0

/-- The end of `n` steps for the model's own fields: the levels of those steps are past, and an operation presented
at the direct entry is consumed. -/
def State.elapse (s : State) (n : Nat) : State :=
  { s with inputs := s.inputs.drop n, steps := s.steps + n, entry := none }

/-- What an asserted `rst` leaves: every element of the tuple at its reset value (R201). The environment's schedule
is not part of the tuple. -/
def State.applyRst (s : State) : State :=
  { State.reset with inputs := s.inputs, steps := s.steps }

/-! ### Column driver and row sampler -/

/-- `onehot_8(c)` (R8, R25). -/
def onehot8 (c : Column) : BitVec 8 := 1#8 <<< c.toNat

/-- The sense word `w` read at multiplexer address `m` fills four bits of a row vector (R61, R112). -/
def placeSense (m : MuxAddr) (w : Sense) (v : RowBits) : RowBits :=
  let v := setBit v (2 * m.toNat) (w.getLsbD 0)
  let v := setBit v (2 * m.toNat + 1) (w.getLsbD 1)
  let v := setBit v (16 + 2 * m.toNat) (w.getLsbD 2)
  setBit v (17 + 2 * m.toNat) (w.getLsbD 3)

/-! ### Change detector -/

/-- `snap[c]`, a whole word (R42). -/
def State.snapAt (s : State) (c : Column) : RowBits := s.snap.get ⟨c.toNat, c.isLt⟩

/-- `snap[c] <- v`, a whole word (R42). -/
def State.setSnap (s : State) (c : Column) (v : RowBits) : State := { s with snap := s.snap.set c.toNat v c.isLt }

/-- The least row whose bit is set, searched upward from row `r` through `n` rows (R121). -/
def leastRowFrom (v : RowBits) (r : Nat) : Nat → Nat
  | 0 => r
  | n + 1 => if v.getLsbD r then r else leastRowFrom v (r + 1) n

/-- The least index `r` with `v[r] = 1`, for `v` not 0 (R121). -/
def leastRow (v : RowBits) : Row := BitVec.ofNat 5 (leastRowFrom v 0 32)

/-! ### MIDI encoder -/

/-- `Emit` of a message's bytes: appended to `tx`, in order, in one step (R9, R44). -/
def State.emit (s : State) (bytes : List Byte) : State := { s with tx := s.tx ++ bytes }

/-- The bytes the `txByte`/`txValid` port presents on the way from an earlier state: those emitted since, each once, in
the order of `tx` (R36, R153). -/
def State.txPresentedSince (s earlier : State) : List Byte := s.tx.drop earlier.tx.length

/-- `sendNote(channel, pitch, on)`: a note-on or a note-off message, refused outside the declared domain (R150). -/
def sendNote (channel pitch : Byte) (on : Bool) (s : State) : Result :=
  if inEncoderDomain channel pitch then
    .next (s.emit (if on then noteOnBytes channel pitch else noteOffBytes channel pitch))
  else .refused (.outsideEncoderDomain channel pitch)

/-! ### Debounce FSM -/

/-- TR_BREAK_CLOSE(key): rearm the key (R136). -/
def breakClose (key : Nat) (s : State) : Result := .next ((s.setOnSent key false).setOffSent key false)

/-- TR_BREAK_OPEN(key): nothing (R137). -/
def breakOpen (_key : Nat) (s : State) : Result := .next s

/-- TR_MAKE_CLOSE(key, channel, pitch): a note-on unless one was sent since the last rearm (R138). -/
def makeClose (key : Nat) (channel pitch : Byte) (s : State) : Result :=
  if s.onSentAt key then .next s else sendNote channel pitch true (s.setOnSent key true)

/-- TR_MAKE_OPEN(key, channel, pitch): a note-off unless one was sent since the last rearm (R139). -/
def makeOpen (key : Nat) (channel pitch : Byte) (s : State) : Result :=
  if s.offSentAt key then .next s else sendNote channel pitch false (s.setOffSent key true)

/-- The transition selected by the contact type and the new state, on a key whose mapping was computed (R135): the
clamp monitor first, on every transition, then the transition's own effect. -/
def transition (contact : Contact) (closed : Bool) (key : Nat) (s : State) : Result :=
  let s := s.monitorClamp key
  match contact, closed with
  | .brk, true => breakClose key s
  | .brk, false => breakOpen key s
  | .make, true => makeClose key (channelOf key) (pitchOf key) s
  | .make, false => makeOpen key (channelOf key) (pitchOf key) s

/-- `handleTransition(r, c, closed)` (R135). -/
def handleTransition (r : Row) (c : Column) (closed : Bool) (s : State) : Result :=
  transition (contactOf r) closed (keyOf r c) s

/-! ### Selecting the operation -/

/-- The word that selects this step's operation: the one presented at the direct entry, or else the phase code (R71). -/
def State.fetch (s : State) : RawWord :=
  match s.entry with
  | some w => w
  | none => encodePhase s.phase

/-- The operation of this step (R160). -/
def State.current (s : State) : Except DecodeError Instr := decodeWord s.fetch

end Sys2Proof.Machine
end

