-- ==== Sys2Proof/Machine/ChangeDetector.lean ====
section
/-! DEFINITION. The change detector's operations (42_change_detector.md). -/

namespace Sys2Proof.Machine

/-- DETECT_CHANGES (R120): the snapshot is replaced unconditionally. -/
def execDetectChanges (s : State) : Result :=
  .next { s.setSnap s.activeColumn s.rowVec with
    changed := s.rowVec ^^^ s.snapAt s.activeColumn
    phase := .handle }

/-- HANDLE_TRANSITION (R121): consume the lowest changed row and hand it to the mapper, or move on when none is left. -/
def execHandleTransition (s : State) : Result :=
  if s.changed = 0#32 then .next { s with phase := .advance }
  else
    let r := leastRow s.changed
    handleTransition r s.activeColumn (s.rowVec.getLsbD r.toNat) { s with changed := setBit s.changed r.toNat false }

end Sys2Proof.Machine
end

