-- ==== Sys2Proof/Machine/ColumnDriver.lean ====
section
/-! DEFINITION. The column driver's operations (40_column_driver.md). -/

namespace Sys2Proof.Machine

/-- SELECT_COLUMN (R100). -/
def execSelectColumn (s : State) : Result :=
  .next { s with colDrive := onehot8 s.activeColumn, addrCur := 0, rowVec := 0x00000000, phase := .setAddr }

/-- ADVANCE_COLUMN (R102): the 3-bit sum is the sum mod 8. -/
def execAdvanceColumn (s : State) : Result :=
  .next { s with activeColumn := s.activeColumn + 1, phase := .idle }

end Sys2Proof.Machine
end

