-- ==== Sys2Proof/Machine/DebounceFsm.lean ====
section
/-! DEFINITION. The debounce FSM's four transitions, each as `handleTransition` runs it (43_debounce_fsm.md R135 to
R139; the direct entry of 45_scan_sequencer.md R167): the key mapping and its clamp monitor, then the transition's own
effect (log entry 9). -/

namespace Sys2Proof.Machine

/-- TR_MAKE_CLOSE (R138). -/
def execTrMakeClose (pair : RowPair) (col : Column) (s : State) : Result :=
  transition .make true (keyOfPair pair col) s

/-- TR_MAKE_OPEN (R139). -/
def execTrMakeOpen (pair : RowPair) (col : Column) (s : State) : Result :=
  transition .make false (keyOfPair pair col) s

/-- TR_BREAK_CLOSE (R136). -/
def execTrBreakClose (pair : RowPair) (col : Column) (s : State) : Result :=
  transition .brk true (keyOfPair pair col) s

/-- TR_BREAK_OPEN (R137). -/
def execTrBreakOpen (pair : RowPair) (col : Column) (s : State) : Result :=
  transition .brk false (keyOfPair pair col) s

end Sys2Proof.Machine
end

