-- ==== Sys2Proof/Machine/MidiEncoder.lean ====
section
/-! DEFINITION. The MIDI encoder's two messages (44_midi_encoder.md). -/

namespace Sys2Proof.Machine

/-- MSG_NOTE_ON (R151), through `sendNote`, which refuses operands outside its declared domain (R150). -/
def execMsgNoteOn (channel pitch : Byte) (s : State) : Result := sendNote channel pitch true s

/-- MSG_NOTE_OFF (R152), through `sendNote`, which refuses operands outside its declared domain (R150). -/
def execMsgNoteOff (channel pitch : Byte) (s : State) : Result := sendNote channel pitch false s

end Sys2Proof.Machine
end

