-- ==== Sys2Proof/Machine/RowSampler.lean ====
section
/-! DEFINITION. The row sampler's operations (41_row_sampler.md). -/

namespace Sys2Proof.Machine

/-- SET_MUX_ADDR (R110): `muxAddr <- addrCur[2:0]`. -/
def execSetMuxAddr (s : State) : Result :=
  .next { s with muxAddr := s.addrCur.extractLsb' 0 3, phase := .settle }

/-- SETTLE_WAIT (R111): an untimed step that changes only the phase (log entry 5). -/
def execSettleWait (s : State) : Result := .next { s with phase := .read }

/-- READ_SENSE (R112): the draw is the level of the sense port at this step; the phase is chosen by the new `addrCur`
(log entry 8). -/
def execReadSense (s : State) : Result :=
  .next { s with
    rowVec := placeSense s.muxAddr s.levels.sense s.rowVec
    addrCur := s.addrCur + 1
    phase := if s.addrCur + 1 = 8 then .diff else .setAddr }

end Sys2Proof.Machine
end

