-- ==== Sys2Proof/Machine/Sequencer.lean ====
section
/-! DEFINITION. The sequencer's own operation (45_scan_sequencer.md). -/

namespace Sys2Proof.Machine

/-- IDLE_WAIT (R161): poll `tickReq` as presented at this step. -/
def execIdleWait (s : State) : Result := .next { s with phase := if s.levels.tickReq then .select else s.phase }

end Sys2Proof.Machine
end

