-- ==== Sys2Proof/Machine/Dispatch.lean ====
section
/-! DEFINITION. One arm for each operation of spec/opcode_table.json. -/

namespace Sys2Proof.Machine

def exec (i : Instr) (s : State) : Host.Outcome State Fault Refusal :=
  match i with
  | .idleWait => Sys2Proof.Machine.execIdleWait s
  | .selectColumn => Sys2Proof.Machine.execSelectColumn s
  | .setMuxAddr => Sys2Proof.Machine.execSetMuxAddr s
  | .settleWait => Sys2Proof.Machine.execSettleWait s
  | .readSense => Sys2Proof.Machine.execReadSense s
  | .detectChanges => Sys2Proof.Machine.execDetectChanges s
  | .handleTransition => Sys2Proof.Machine.execHandleTransition s
  | .advanceColumn => Sys2Proof.Machine.execAdvanceColumn s
  | .trMakeClose pair col => Sys2Proof.Machine.execTrMakeClose pair col s
  | .trMakeOpen pair col => Sys2Proof.Machine.execTrMakeOpen pair col s
  | .trBreakClose pair col => Sys2Proof.Machine.execTrBreakClose pair col s
  | .trBreakOpen pair col => Sys2Proof.Machine.execTrBreakOpen pair col s
  | .msgNoteOn channel pitch => Sys2Proof.Machine.execMsgNoteOn channel pitch s
  | .msgNoteOff channel pitch => Sys2Proof.Machine.execMsgNoteOff channel pitch s

end Sys2Proof.Machine
end

