-- ==== Sys2Proof/Machine/Step.lean ====
section
/-! DEFINITION. One step of the block (45_scan_sequencer.md R160), and the placing of an operation where the next step
finds it. -/

namespace Sys2Proof.Machine

/-- One step. With `rst` asserted, every element of the tuple takes its reset value (R201). Otherwise the step performs
the operation the phase selects (R160), or the one presented at the direct entry (log entry 3). In both cases the port
levels of this step are then past. -/
def step (s : State) : Host.Outcome State Fault Refusal :=
  if s.levels.rst then .next (s.applyRst.elapse 1)
  else
    match s.current with
    | .error _ => .refused (.noSuchOperation s.fetch)
    | .ok i =>
      match exec i s with
      | .next t => .next (t.elapse 1)
      | .fault f => .fault f
      | .refused r => .refused r

/-- The state whose next step runs the operation of a word of spec/opcode_table.json: a phase code goes into the phase
register, any other word to the direct entry (log entry 3). The `rst` input is low at that step; the other port levels
stay as they are. -/
def State.withFetchWord (s : State) (nbits w : Nat) : State :=
  let s := { s with inputs := { s.levels with rst := false } :: s.inputs.drop 1 }
  if nbits = 8 ∧ w < 8 then { s with phase := Phase.ofCode (BitVec.ofNat 3 w), entry := none }
  else { s with entry := some ⟨nbits, w⟩ }

end Sys2Proof.Machine
end

