-- ==== Sys2Proof/Machine/Tick.lean ====
section
/-! DEFINITION. The tick as one big step (45_scan_sequencer.md R162), and the mapper run over a sequence of transitions
(R167). -/

namespace Sys2Proof.Machine

/-- Hand the outcome on to what comes next, stopping at a refusal. -/
def andThen (o : Result) (f : State → Result) : Result :=
  match o with
  | .next s => f s
  | .fault e => .fault e
  | .refused r => .refused r

/-- The multiplexer addresses in the order of a tick (R113). -/
def muxOrder : List MuxAddr := [0, 1, 2, 3, 4, 5, 6, 7]

/-- `sampleColumn()`: the row vector eight sense words assemble, read in address order (R114, R162). -/
def sampleColumn (words : MuxAddr → Sense) (v : RowBits) : RowBits :=
  muxOrder.foldl (fun v m => placeSense m (words m) v) v

/-- The rows whose bit is set, in ascending order (R121, R123). -/
def changedRows (d : RowBits) : List Row :=
  ((List.range 32).filter fun r => d.getLsbD r).map (BitVec.ofNat 5)

/-- The mapper fed with a sequence of transitions `(row, column, closed)`, in order (R167). -/
def handleAll : List (Row × Column × Bool) → State → Result
  | [], s => .next s
  | (r, c, closed) :: ts, s => andThen (handleTransition r c closed s) (handleAll ts)

/-- The transitions of a tick that finds the row vector `v` at column `c`, of which the rows in `d` changed (R162). -/
def transitionsOf (c : Column) (v d : RowBits) : List (Row × Column × Bool) :=
  (changedRows d).map fun r => (r, c, v.getLsbD r.toNat)

/-- TICK (R162): the state at the next IDLE, for the eight sense words the tick draws. -/
def tick (words : MuxAddr → Sense) (s : State) : Result :=
  let c := s.activeColumn
  let v := sampleColumn words 0
  let d := v ^^^ s.snapAt c
  andThen
    (handleAll (transitionsOf c v d)
      ({ s with colDrive := onehot8 c, muxAddr := 7, addrCur := 8, rowVec := v, changed := 0 }.setSnap c v))
    fun t => .next { t with activeColumn := c + 1, phase := .idle }

/-- `n` successive ticks, the `k`-th drawing `words k` (R103, R163). -/
def ticks : List (MuxAddr → Sense) → State → Result
  | [], s => .next s
  | w :: ws, s => andThen (tick w s) (ticks ws)

end Sys2Proof.Machine
end

