-- ==== Sys2Proof/Safety.lean ====
section
/-! DEFINITION. The terms in which statements about the block are made: its invariant, the messages it may send, runs
with `rst` low, sequences of operations, and the trace of the mapper. -/

namespace Sys2Proof.Machine

/-- The number of bits that are 1 (R8). -/
def popcount {n : Nat} (v : BitVec n) : Nat := (List.range n).countP fun i => v.getLsbD i

/-- A message the block may send: channel 0 or 1 and pitch 36..96 (R69). -/
def isBlockMessage : Instr → Bool
  | .msgNoteOn c p => decide (c.toNat ≤ 1) && decide (36 ≤ p.toNat) && decide (p.toNat ≤ 96)
  | .msgNoteOff c p => decide (c.toNat ≤ 1) && decide (36 ≤ p.toNat) && decide (p.toNat ≤ 96)
  | .idleWait => false
  | .selectColumn => false
  | .setMuxAddr => false
  | .settleWait => false
  | .readSense => false
  | .detectChanges => false
  | .handleTransition => false
  | .advanceColumn => false
  | .trMakeClose _ _ => false
  | .trMakeOpen _ _ => false
  | .trBreakClose _ _ => false
  | .trBreakOpen _ _ => false

/-- A byte stream made of whole messages the block may send (R69, R70). -/
def txLegal (bytes : List Byte) : Bool :=
  match readMessages bytes with
  | .ok ms => ms.all isBlockMessage
  | .error _ => false

/-- Drive lines: always exactly one is asserted, and from SELECT_COLUMN to ADVANCE_COLUMN it is the active column's
(R25, R101). -/
def State.driveOk (s : State) : Bool :=
  match s.phase with
  | .idle | .select => popcount s.colDrive == 1
  | .setAddr | .settle | .read | .diff | .handle | .advance => s.colDrive == onehot8 s.activeColumn

/-- Address counter: 0..8 always, 0..7 while addresses remain, and the multiplexer at the address just set (R27, R110,
R112, R162). -/
def State.addrOk (s : State) : Bool :=
  match s.phase with
  | .idle | .select => decide (s.addrCur.toNat ≤ 8)
  | .setAddr => decide (s.addrCur.toNat < 8)
  | .settle | .read => decide (s.addrCur.toNat < 8) && s.muxAddr.toNat == s.addrCur.toNat
  | .diff | .handle | .advance => s.addrCur == 8 && s.muxAddr == 7

/-- The set of rows still to be handled is empty in every phase but HANDLE (R29, C12). -/
def State.changedOk (s : State) : Bool :=
  match s.phase with
  | .handle => true
  | .idle | .select | .setAddr | .settle | .read | .diff | .advance => s.changed == 0#32

/-- While changes are handled, the active column's snapshot is the row vector (R121, R122). -/
def State.snapOk (s : State) : Bool :=
  match s.phase with
  | .handle | .advance => s.snapAt s.activeColumn == s.rowVec
  | .idle | .select | .setAddr | .settle | .read | .diff => true

/-- Bits 128..255 of both bitmaps hold their reset value for ever (R22, R23). -/
def State.flagsOk (s : State) : Bool := s.onSent >>> 128 == 0 && s.offSent >>> 128 == 0

/-- The invariant of the block: what the rules say of every state a run reaches. Its last part says that nothing is
presented at the direct entry, so that the state is the block's own (log entry 3). -/
def State.inv (s : State) : Bool :=
  s.driveOk && s.addrOk && s.changedOk && s.snapOk && s.flagsOk && txLegal s.tx && s.entry == none

/-- The invariant, as a proposition. -/
abbrev State.Inv (s : State) : Prop := s.inv = true

/-- The block runs by itself for `n` steps: nothing is at the direct entry and `rst` is low at each of them. -/
abbrev State.Undisturbed (s : State) (n : Nat) : Prop := s.entry = none ∧ ∀ k < n, (s.levelsAt k).rst = false

/-- The state with other port levels at this step. -/
def State.withLevels (s : State) (l : PortLevels) : State := { s with inputs := l :: s.inputs.drop 1 }

/-- `n` steps of the machine (the host's `Core.run`, by Laws/Step.lean). -/
def runSteps : Nat → State → Result
  | 0, s => .next s
  | n + 1, s => andThen (step s) (runSteps n)

/-- Operations performed one after the other. -/
def execAll : List Instr → State → Result
  | [], s => .next s
  | i :: is, s => andThen (exec i s) (execAll is)

/-- The trace of the mapper over a sequence of transitions: for each, its key and the bytes it sent (R167). -/
def mapperTrace : List (Row × Column × Bool) → State → List (Nat × List Byte)
  | [], _ => []
  | (r, c, closed) :: ts, s =>
    match handleTransition r c closed s with
    | .next t => (keyOf r c, t.txPresentedSince s) :: mapperTrace ts t
    | .fault _ => []
    | .refused _ => []

/-- The bytes of a message a key sends: its status for the keyboard's channel, its pitch, the velocity (R66, R67). -/
def keyMessage (key : Nat) (on : Bool) : List Byte :=
  [(if on then 0x90 else 0x80) ||| (if key ≥ 64 then 0 else 1), BitVec.ofNat 8 (min (36 + key % 64) 96),
    if on then 0x7F else 0x00]

/-- The clamp monitor's condition for a key, in the rule's words (R142). -/
def clampsAt (key : Nat) : Bool := decide (36 + key % 64 > 96)

end Sys2Proof.Machine
end

