-- ==== Sys2Proof/Certificates/Slice0/Obligations.lean ====
section
/-! DEFINITION. The statements for the provers, in the order of spec/: reset, sequencer, column driver, row sampler,
change detector, mapper, debounce FSM, encoder, encodings, invariants and the tick. A statement that rests on a rule
the spec marks as derived says so. -/

open Sys2Proof Sys2Proof.Machine

/-! ### Reset -/

/-- R200: all eight snapshots and both bitmaps are clear before the first tick. -/
def Obligations.ResetClearsSnapshotsAndBitmaps : Prop :=
  (∀ c : Column, State.reset.snapAt c = 0x00000000) ∧
  ∀ k < 256, State.reset.onSentAt k = false ∧ State.reset.offSentAt k = false

/-- R201: an asserted `rst` leaves every element of the tuple at the value of the table, and a state with those values
and nothing at the direct entry performs IDLE_WAIT and, once in SELECT, drives column 0. -/
def Obligations.RstLeavesTheResetTable : Prop :=
  (∀ s : State, s.levels.rst = true →
    ∃ t, step s = .next t ∧ t.phase = .idle ∧ t.activeColumn = 0 ∧ t.colDrive = 0x01 ∧ t.muxAddr = 0 ∧ t.addrCur = 0 ∧
      t.rowVec = 0 ∧ t.changed = 0 ∧ (∀ c, t.snapAt c = 0) ∧ t.onSent = 0 ∧ t.offSent = 0 ∧ t.clampSeen = false ∧
      t.tx = [] ∧ t.current = .ok .idleWait ∧
      t = { State.reset with inputs := s.inputs.drop 1, steps := s.steps + 1 }) ∧
  State.reset.current = .ok .idleWait ∧
  ∀ s : State, s.activeColumn = State.reset.activeColumn →
    ∃ t, exec .selectColumn s = .next t ∧ t.colDrive = 0x01

/-! ### Sequencer -/

/-- A step performs the operation the phase selects (R71, R160); around it, the port levels of the step are past. -/
def Obligations.StepRunsTheSelectedOperation : Prop :=
  (∀ s : State, s.entry = none → s.current = .ok s.phase.operation) ∧
  ∀ (s : State) (i : Instr), s.levels.rst = false → s.current = .ok i →
    step s = match exec i s with
      | .next t => .next { t with inputs := t.inputs.drop 1, steps := t.steps + 1, entry := none }
      | .fault f => .fault f
      | .refused r => .refused r

/-- R160: the phase table. In every state of the block, with `rst` low, the step performs the phase's operation and
the next phase is the table's. -/
def Obligations.PhaseTable : Prop :=
  ∀ s : State, s.Inv → s.levels.rst = false →
    ∃ t u, s.current = .ok s.phase.operation ∧ exec s.phase.operation s = .next u ∧ step s = .next t ∧ t = u.elapse 1 ∧
      t.phase = match s.phase with
        | .idle => if s.levels.tickReq then .select else .idle
        | .select => .setAddr
        | .setAddr => .settle
        | .settle => .read
        | .read => if t.addrCur.toNat < 8 then .setAddr else .diff
        | .diff => .handle
        | .handle => if s.changed ≠ 0#32 then .handle else .advance
        | .advance => .idle

/-- The loop never ends (R164, a rule the spec derives; R180): with nothing at the direct entry, a run of any length
under any port levels answers a next state. -/
def Obligations.LoopNeverHalts : Prop :=
  ∀ (n : Nat) (s : State), s.entry = none → ∃ t : State, runSteps n s = .next t ∧ t.entry = none

/-- R161: IDLE_WAIT starts a tick when `tickReq` is 1 and else changes nothing; the request is looked at only in IDLE,
so that one raised while a tick is running is not remembered; an environment that never raises it leaves the block in
IDLE with nothing emitted. -/
def Obligations.IdleWaitPollsTickReq : Prop :=
  Phase.idle.code = 0 ∧ (∀ s : State, s.entry = none → s.phase = .idle → s.current = .ok .idleWait) ∧
  (∀ s : State, (s.levels.tickReq = true → exec .idleWait s = .next { s with phase := .select }) ∧
    (s.levels.tickReq = false → exec .idleWait s = .next s)) ∧
  (∀ (s : State) (l l' : PortLevels), s.entry = none → s.phase ≠ .idle → l.rst = l'.rst → l.sense = l'.sense →
    step (s.withLevels l) = step (s.withLevels l')) ∧
  ∀ (n : Nat) (s : State), s.phase = .idle → s.Undisturbed n → (∀ k < n, (s.levelsAt k).tickReq = false) →
    runSteps n s = .next (s.elapse n)

/-- The sense lines are looked at only in READ (R36, R112, R160): in any other phase two levels of them give the same
step. -/
def Obligations.SenseIsSampledOnlyInRead : Prop :=
  ∀ (s : State) (l l' : PortLevels), s.entry = none → s.phase ≠ .read → l.rst = l'.rst → l.tickReq = l'.tickReq →
    step (s.withLevels l) = step (s.withLevels l')

/-- Which operation writes which element (the summary table of 10_state.md section 1). -/
def Obligations.ElementsAreWrittenOnlyByTheirOperations : Prop :=
  ∀ (i : Instr) (s t : State), exec i s = .next t →
    (i ≠ .detectChanges → t.snap = s.snap) ∧
    ((∀ p c, i ≠ .trMakeClose p c ∧ i ≠ .trBreakClose p c) → i ≠ .handleTransition → t.onSent = s.onSent) ∧
    ((∀ p c, i ≠ .trMakeOpen p c ∧ i ≠ .trBreakClose p c) → i ≠ .handleTransition → t.offSent = s.offSent) ∧
    (i ≠ .advanceColumn → t.activeColumn = s.activeColumn) ∧
    (i ≠ .selectColumn → t.colDrive = s.colDrive) ∧
    (i ≠ .setMuxAddr → t.muxAddr = s.muxAddr) ∧
    (i ≠ .selectColumn → i ≠ .readSense → t.addrCur = s.addrCur ∧ t.rowVec = s.rowVec) ∧
    (i ≠ .detectChanges → i ≠ .handleTransition → t.changed = s.changed) ∧
    ((∀ p c, i ≠ .trMakeClose p c ∧ i ≠ .trMakeOpen p c ∧ i ≠ .trBreakClose p c ∧ i ≠ .trBreakOpen p c) →
      i ≠ .handleTransition → t.clampSeen = s.clampSeen) ∧
    ((∀ p c, i ≠ .trMakeClose p c ∧ i ≠ .trMakeOpen p c) → (∀ c p, i ≠ .msgNoteOn c p ∧ i ≠ .msgNoteOff c p) →
      i ≠ .handleTransition → t.tx = s.tx) ∧
    t.inputs = s.inputs ∧ t.steps = s.steps ∧ t.entry = s.entry

/-! ### Column driver -/

/-- R100: SELECT_COLUMN asserts the active column's line and no other, and starts the sampling. -/
def Obligations.SelectColumnAssertsOneLine : Prop :=
  Phase.select.code = 1 ∧ (∀ s : State, s.entry = none → s.phase = .select → s.current = .ok .selectColumn) ∧
  ∀ s : State, ∃ t, exec .selectColumn s = .next t ∧
    t = { s with colDrive := t.colDrive, addrCur := 0, rowVec := 0x00000000, phase := .setAddr } ∧
    (∀ i < 8, t.colDrive.getLsbD i = decide (i = s.activeColumn.toNat)) ∧
    (s.colDrive = onehot8 s.activeColumn → t.colDrive = s.colDrive)

/-- R102: ADVANCE_COLUMN moves round-robin and leaves the drive lines; the block comes to it only from a HANDLE that has
consumed every changed row. -/
def Obligations.AdvanceColumnIsRoundRobin : Prop :=
  Phase.advance.code = 7 ∧ (∀ s : State, s.entry = none → s.phase = .advance → s.current = .ok .advanceColumn) ∧
  (∀ s : State, ∃ t, exec .advanceColumn s = .next t ∧
    t = { s with activeColumn := t.activeColumn, phase := .idle } ∧
    t.activeColumn.toNat = (s.activeColumn.toNat + 1) % 8) ∧
  ∀ s t : State, s.Undisturbed 1 → step s = .next t → t.phase = .advance → s.phase = .handle ∧ s.changed = 0#32

/-- The scan order (R103, a rule the spec derives): tick `k` from a state drives the column `k - 1` after the active
one; from reset, column `(k - 1) mod 8`. -/
def Obligations.TicksScanTheColumnsInOrder : Prop :=
  (∀ (words : List (MuxAddr → Sense)) (s : State), ∃ t, ticks words s = .next t ∧
    t.activeColumn.toNat = (s.activeColumn.toNat + words.length) % 8) ∧
  ∀ (words : List (MuxAddr → Sense)) (w : MuxAddr → Sense), ∃ t u, ticks words State.reset = .next t ∧
    tick w t = .next u ∧ ∀ i < 8, u.colDrive.getLsbD i = decide (i = words.length % 8)

/-! ### Row sampler -/

/-- SET_MUX_ADDR drives `addrCur[2:0]` (R110); in the block's own states the truncation drops no bit, which the spec
derives of R112 and R100. -/
def Obligations.SetMuxAddrDrivesTheAddress : Prop :=
  Phase.setAddr.code = 2 ∧ (∀ s : State, s.entry = none → s.phase = .setAddr → s.current = .ok .setMuxAddr) ∧
  (∀ s : State, ∃ t, exec .setMuxAddr s = .next t ∧ t = { s with muxAddr := t.muxAddr, phase := .settle } ∧
    t.muxAddr.toNat = s.addrCur.toNat % 8) ∧
  ∀ s : State, s.Inv → s.phase = .setAddr → s.addrCur.toNat ≤ 7

/-- R111: SETTLE_WAIT changes only the phase. -/
def Obligations.SettleWaitChangesOnlyThePhase : Prop :=
  Phase.settle.code = 3 ∧ (∀ s : State, s.entry = none → s.phase = .settle → s.current = .ok .settleWait) ∧
  ∀ s : State, exec .settleWait s = .next { s with phase := .read }

/-- R112: READ_SENSE places the four sense bits and moves on. -/
def Obligations.ReadSensePlacesFourBits : Prop :=
  Phase.read.code = 4 ∧ (∀ s : State, s.entry = none → s.phase = .read → s.current = .ok .readSense) ∧
  ∀ s : State, ∃ t, exec .readSense s = .next t ∧
    t = { s with rowVec := t.rowVec, addrCur := s.addrCur + 1, phase := t.phase } ∧
    t.phase = (if t.addrCur = 8 then .diff else .setAddr) ∧
    t.rowVec.getLsbD (2 * s.muxAddr.toNat) = s.levels.sense.getLsbD 0 ∧
    t.rowVec.getLsbD (2 * s.muxAddr.toNat + 1) = s.levels.sense.getLsbD 1 ∧
    t.rowVec.getLsbD (16 + 2 * s.muxAddr.toNat) = s.levels.sense.getLsbD 2 ∧
    t.rowVec.getLsbD (17 + 2 * s.muxAddr.toNat) = s.levels.sense.getLsbD 3 ∧
    ∀ r < 32, r % 16 / 2 ≠ s.muxAddr.toNat → t.rowVec.getLsbD r = s.rowVec.getLsbD r

/-- The sampled row vector (R114, a rule the spec derives, over the layout of R61): after the eight reads each bit is
the one its address read, whatever the vector held before. -/
def Obligations.SampleColumnHasEveryRowFromItsAddress : Prop :=
  ∀ (words : MuxAddr → Sense) (v : RowBits) (r : Nat), r < 32 →
    (sampleColumn words v).getLsbD r = (words (BitVec.ofNat 3 (r % 16 / 2))).getLsbD (2 * (r / 16) + r % 2)

/-! ### Change detector -/

/-- R120: DETECT_CHANGES sets `changed` to the rows that differ and replaces the active column's snapshot only. -/
def Obligations.DetectChangesDiffsAndReplaces : Prop :=
  Phase.diff.code = 5 ∧ (∀ s : State, s.entry = none → s.phase = .diff → s.current = .ok .detectChanges) ∧
  ∀ s : State, ∃ t, exec .detectChanges s = .next t ∧
    t = { s with changed := t.changed, snap := t.snap, phase := .handle } ∧
    (∀ r < 32, t.changed.getLsbD r = (s.rowVec.getLsbD r != (s.snapAt s.activeColumn).getLsbD r)) ∧
    (s.rowVec = s.snapAt s.activeColumn → t.changed = 0) ∧
    t.snapAt s.activeColumn = s.rowVec ∧ ∀ c ≠ s.activeColumn, t.snapAt c = s.snapAt c

/-- A second DETECT_CHANGES with the same vector finds no change (R122, a rule the spec derives). -/
def Obligations.DetectTwiceFindsNoChange : Prop :=
  ∀ s : State, ∃ t u, exec .detectChanges s = .next t ∧ exec .detectChanges t = .next u ∧ u.changed = 0 ∧
    ∀ c, u.snapAt c = t.snapAt c

/-- R121: HANDLE_TRANSITION hands on the lowest changed row with its new state, or moves to ADVANCE. -/
def Obligations.HandleTransitionTakesTheLowestRow : Prop :=
  Phase.handle.code = 6 ∧ (∀ s : State, s.entry = none → s.phase = .handle → s.current = .ok .handleTransition) ∧
  (∀ s : State, s.changed = 0#32 → exec .handleTransition s = .next { s with phase := .advance }) ∧
  (∀ s : State, s.changed ≠ 0#32 → ∃ r : Row, s.changed.getLsbD r.toNat = true ∧ ∀ q < r.toNat, s.changed.getLsbD q = false) ∧
  ∀ (s : State) (r : Row), s.changed.getLsbD r.toNat = true → (∀ q < r.toNat, s.changed.getLsbD q = false) →
    ∃ d t, (∀ q, d.getLsbD q = (s.changed.getLsbD q && q != r.toNat)) ∧ exec .handleTransition s = .next t ∧
      handleTransition r s.activeColumn (s.rowVec.getLsbD r.toNat) { s with changed := d } = .next t ∧
      t.phase = s.phase ∧ t.changed = d

/-- Completeness of the iteration (R123, a rule the spec derives): from HANDLE, `popcount(changed)` steps hand on
exactly the changed rows, each once, in ascending order, and one more moves to ADVANCE. -/
def Obligations.HandleStepsConsumeEveryChangedRowOnce : Prop :=
  (∀ (d : RowBits) (r : Row), r ∈ changedRows d ↔ d.getLsbD r.toNat = true) ∧
  (∀ d : RowBits, (changedRows d).Pairwise (fun a b => a.toNat < b.toNat) ∧ (changedRows d).length = popcount d) ∧
  ∀ s : State, s.phase = .handle → s.Undisturbed (popcount s.changed + 1) →
    ∃ t, handleAll (transitionsOf s.activeColumn s.rowVec s.changed) { s with changed := 0 } = .next t ∧
      runSteps (popcount s.changed + 1) s =
        .next ({ t with phase := .advance }.elapse (popcount s.changed + 1))

/-! ### Key identity -/

/-- The key number of a cell (R130); its range, the rows of each half and the distinctness of keys are the spec's own
inference from the formula. -/
def Obligations.KeyNumberOfACell : Prop :=
  ∀ (r : Row) (c : Column), keyOf r c = 8 * (r.toNat / 2) + c.toNat ∧ keyOf r c ≤ 127 ∧
    (r.toNat ≤ 15 ↔ keyOf r c ≤ 63) ∧
    ∀ (r' : Row) (c' : Column), keyOf r c = keyOf r' c' ↔ r.toNat / 2 = r'.toNat / 2 ∧ c = c'

/-- The key's bits are the row pair above the column (R63, R62). -/
def Obligations.KeyBitsArePairAndColumn : Prop :=
  ∀ (r : Row) (c : Column), BitVec.ofNat 7 (keyOf r c) = pairOf r ++ c ∧ keyOfPair (pairOf r) c = keyOf r c ∧
    (keyboardOf (keyOf r c) = .upper ↔ r.getLsbD 4 = true) ∧ (contactOf r = .brk ↔ r.toNat % 2 = 1)

/-- Keyboard, channel, fold and pitch of a key (R131, R132, R133); the form `1 - key[6]` of the channel and the keys
whose pitch the clamp changes are the spec's own inference. -/
def Obligations.ChannelAndPitchOfAKey : Prop :=
  (∀ (r : Row) (c : Column), keyboardOf (keyOf r c) = .lower ↔ r.toNat ≤ 15) ∧
  ∀ key ≤ 127, keyboardOf key = (if key ≥ 64 then .upper else .lower) ∧ channelOf key = (if key ≥ 64 then 0 else 1) ∧
    (channelOf key).toNat = 1 - key / 64 ∧
    foldOf key = key % 64 ∧ (pitchOf key).toNat = min (max (36 + key % 64) 0) 96 ∧
    36 ≤ (pitchOf key).toNat ∧ (pitchOf key).toNat ≤ 96 ∧ ((pitchOf key).toNat ≠ 36 + key % 64 ↔ 61 ≤ key % 64) ∧
    (key < 64 → foldOf (key + 64) = foldOf key ∧ pitchOf (key + 64) = pitchOf key ∧ channelOf (key + 64) ≠ channelOf key)

/-- Channel and pitch are unique over the 61 wired keys of a keyboard and shared by the folds 60..63 (R143, a rule the
spec derives). -/
def Obligations.ChannelAndPitchAreUniqueOverWiredKeys : Prop :=
  (∀ k ≤ 127, ∀ k' ≤ 127, k % 64 ≤ 60 → k' % 64 ≤ 60 → channelOf k = channelOf k' → pitchOf k = pitchOf k' → k = k') ∧
  ∀ k ≤ 127, 60 ≤ k % 64 → pitchOf k = 96

/-! ### Debounce FSM -/

/-- The mapper computes the key, its channel and pitch and the clamp flag on every transition, and runs the operation
the contact type and the new state select (R135); it answers a next state for every row, column and value. That the
operation of a descriptor alone includes the mapping and the clamp monitor is the model's reading (log entry 9), and
that one transition sends at most one message the spec derives (R163). -/
def Obligations.HandleTransitionRunsTheSelectedTransition : Prop :=
  ∀ (r : Row) (c : Column) (closed : Bool) (s : State),
    handleTransition r c closed s = exec (decodeTrans (packTrans r c closed)) s ∧
    decodeTrans (packTrans r c closed) = (match contactOf r, closed with
      | .brk, true => .trBreakClose (pairOf r) c
      | .brk, false => .trBreakOpen (pairOf r) c
      | .make, true => .trMakeClose (pairOf r) c
      | .make, false => .trMakeOpen (pairOf r) c) ∧
    ∃ t, handleTransition r c closed s = .next t ∧
      t.clampSeen = (s.clampSeen || clampsAt (8 * (r.toNat / 2) + c.toNat)) ∧
      (t.tx = s.tx ∨ ∃ on, t.tx = s.tx ++ keyMessage (8 * (r.toNat / 2) + c.toNat) on)

/-- TR_BREAK_CLOSE clears both sent-flags of its key, whatever they held, and sends nothing (R136). That the operation
alone may set clampSeen (R135, R142) is the model's reading (log entry 9). -/
def Obligations.BreakCloseRearmsTheKey : Prop :=
  (∀ t : TransWord, t &&& 0x108#9 = 0x108#9 ↔ ∃ p c, decodeTrans t = .trBreakClose p c) ∧
  ∀ (p : RowPair) (c : Column) (s : State), ∃ t, exec (.trBreakClose p c) s = .next t ∧
    t = { s with onSent := t.onSent, offSent := t.offSent,
                 clampSeen := s.clampSeen || clampsAt (8 * p.toNat + c.toNat) } ∧
    (∀ k, t.onSentAt k = (s.onSentAt k && k != 8 * p.toNat + c.toNat)) ∧
    ∀ k, t.offSentAt k = (s.offSentAt k && k != 8 * p.toNat + c.toNat)

/-- TR_BREAK_OPEN writes no flag and sends nothing (R137), which says itself that the mapping of R135 may set clampSeen;
that the operation alone includes that mapping is the model's reading (log entry 9). -/
def Obligations.BreakOpenDoesNothing : Prop :=
  (∀ t : TransWord, t &&& 0x108#9 = 0x008#9 ↔ ∃ p c, decodeTrans t = .trBreakOpen p c) ∧
  ∀ (p : RowPair) (c : Column) (s : State), exec (.trBreakOpen p c) s =
    .next { s with clampSeen := s.clampSeen || clampsAt (8 * p.toNat + c.toNat) }

/-- TR_MAKE_CLOSE sends one note-on and sets onSent, unless onSent is set already; offSent plays no part (R138). That the
operation alone may set clampSeen (R135, R142) is the model's reading (log entry 9). -/
def Obligations.MakeCloseSendsNoteOnOnce : Prop :=
  (∀ t : TransWord, t &&& 0x108#9 = 0x100#9 ↔ ∃ p c, decodeTrans t = .trMakeClose p c) ∧
  ∀ (p : RowPair) (c : Column) (s : State),
    (s.onSentAt (8 * p.toNat + c.toNat) = true → exec (.trMakeClose p c) s =
      .next { s with clampSeen := s.clampSeen || clampsAt (8 * p.toNat + c.toNat) }) ∧
    (s.onSentAt (8 * p.toNat + c.toNat) = false → ∃ t, exec (.trMakeClose p c) s = .next t ∧
      t = { s with onSent := t.onSent, clampSeen := s.clampSeen || clampsAt (8 * p.toNat + c.toNat),
                   tx := s.tx ++ keyMessage (8 * p.toNat + c.toNat) true } ∧
      ∀ k, t.onSentAt k = (s.onSentAt k || k == 8 * p.toNat + c.toNat))

/-- TR_MAKE_OPEN sends one note-off and sets offSent, unless offSent is set already; onSent plays no part (R139). That
the operation alone may set clampSeen (R135, R142) is the model's reading (log entry 9). -/
def Obligations.MakeOpenSendsNoteOffOnce : Prop :=
  (∀ t : TransWord, t &&& 0x108#9 = 0x000#9 ↔ ∃ p c, decodeTrans t = .trMakeOpen p c) ∧
  ∀ (p : RowPair) (c : Column) (s : State),
    (s.offSentAt (8 * p.toNat + c.toNat) = true → exec (.trMakeOpen p c) s =
      .next { s with clampSeen := s.clampSeen || clampsAt (8 * p.toNat + c.toNat) }) ∧
    (s.offSentAt (8 * p.toNat + c.toNat) = false → ∃ t, exec (.trMakeOpen p c) s = .next t ∧
      t = { s with offSent := t.offSent, clampSeen := s.clampSeen || clampsAt (8 * p.toNat + c.toNat),
                   tx := s.tx ++ keyMessage (8 * p.toNat + c.toNat) false } ∧
      ∀ k, t.offSentAt k = (s.offSentAt k || k == 8 * p.toNat + c.toNat))

/-- Between two break closures of a key it sends at most one note-on and at most one note-off, whatever the other keys
do (R140, a rule the spec derives). -/
def Obligations.AtMostOneNoteOfEachKindBetweenRearms : Prop :=
  ∀ (ts : List (Row × Column × Bool)) (s : State) (key : Nat),
    (∀ x ∈ ts, keyOf x.1 x.2.1 = key → contactOf x.1 = .brk → x.2.2 = false) →
    (mapperTrace ts s).length = ts.length ∧
    ∀ on, (mapperTrace ts s).countP (fun e => e.1 == key && e.2 == keyMessage key on) ≤ 1

/-- The keys are independent (R140, a rule the spec derives): a transition changes the sent-flags of its own key only. -/
def Obligations.TransitionsOfOneKeyLeaveTheOthers : Prop :=
  ∀ (r : Row) (c : Column) (closed : Bool) (s t : State) (k : Nat), handleTransition r c closed s = .next t →
    k ≠ 8 * (r.toNat / 2) + c.toNat → t.onSentAt k = s.onSentAt k ∧ t.offSentAt k = s.offSentAt k

/-- Rearm correctness (R140, a rule the spec derives): after a break closure the next make closure of the key sends a
note-on, whatever transitions come in between that are no make closure of the key. -/
def Obligations.RearmThenPressSendsNoteOn : Prop :=
  ∀ (p : RowPair) (c : Column) (s : State) (between : List (Row × Column × Bool)),
    (∀ x ∈ between, keyOf x.1 x.2.1 = 8 * p.toNat + c.toNat → contactOf x.1 = .make → x.2.2 = false) →
    ∃ t u v, exec (.trBreakClose p c) s = .next t ∧ t.tx = s.tx ∧ t.onSentAt (8 * p.toNat + c.toNat) = false ∧
      t.offSentAt (8 * p.toNat + c.toNat) = false ∧ handleAll between t = .next u ∧
      exec (.trMakeClose p c) u = .next v ∧ v.tx = u.tx ++ keyMessage (8 * p.toNat + c.toNat) true ∧
      v.onSentAt (8 * p.toNat + c.toNat) = true ∧
      v.offSentAt (8 * p.toNat + c.toNat) = u.offSentAt (8 * p.toNat + c.toNat)

/-- The order of the two contacts on release does not matter (R144, a rule the spec derives). -/
def Obligations.ReleaseOrderDoesNotMatter : Prop :=
  ∀ (p : RowPair) (c : Column) (s : State),
    execAll [.trMakeOpen p c, .trBreakOpen p c] s = execAll [.trBreakOpen p c, .trMakeOpen p c] s

/-- The stuck note (R206, a rule the spec derives): a tick that finds both contacts of an open key closed runs the make
row before the break row, so that of that key it sends the note-on and nothing else and leaves it rearmed; from there a
make bounce on release sends note-off and note-on, and the last opening sends nothing. -/
def Obligations.SameTickPressLeavesTheKeyRearmed : Prop :=
  ∀ (words : MuxAddr → Sense) (s : State) (p : RowPair), s.onSentAt (8 * p.toNat + s.activeColumn.toNat) = false →
    (∀ b < 2, (s.snapAt s.activeColumn).getLsbD (2 * p.toNat + b) = false ∧
      (sampleColumn words 0).getLsbD (2 * p.toNat + b) = true) →
    ∃ trace t u,
      trace = mapperTrace (transitionsOf s.activeColumn (sampleColumn words 0)
        (sampleColumn words 0 ^^^ s.snapAt s.activeColumn)) s ∧
      trace.filter (fun e => e.1 == 8 * p.toNat + s.activeColumn.toNat) =
        [(8 * p.toNat + s.activeColumn.toNat, keyMessage (8 * p.toNat + s.activeColumn.toNat) true),
          (8 * p.toNat + s.activeColumn.toNat, [])] ∧
      tick words s = .next t ∧ t.tx = s.tx ++ trace.flatMap (fun e => e.2) ∧
      t.onSentAt (8 * p.toNat + s.activeColumn.toNat) = false ∧
      t.offSentAt (8 * p.toNat + s.activeColumn.toNat) = false ∧
      execAll [.trMakeOpen p s.activeColumn, .trMakeClose p s.activeColumn, .trMakeOpen p s.activeColumn,
        .trBreakOpen p s.activeColumn] t = .next u ∧
      u.tx = t.tx ++ (keyMessage (8 * p.toNat + s.activeColumn.toNat) false ++
        keyMessage (8 * p.toNat + s.activeColumn.toNat) true)

/-- The same on the four transitions alone (R206, a rule the spec derives): a make closure followed by a break closure of
the key sends the note-on and rearms; the transitions of a make bounce on release then send note-off and note-on, and
the last opening sends nothing. -/
def Obligations.MakeThenBreakClosureRearmsBeforeABounce : Prop :=
  ∀ (p : RowPair) (c : Column) (s : State), s.onSentAt (8 * p.toNat + c.toNat) = false →
    ∃ t u, execAll [.trMakeClose p c, .trBreakClose p c] s = .next t ∧
      t.tx = s.tx ++ keyMessage (8 * p.toNat + c.toNat) true ∧
      t.onSentAt (8 * p.toNat + c.toNat) = false ∧ t.offSentAt (8 * p.toNat + c.toNat) = false ∧
      execAll [.trMakeOpen p c, .trMakeClose p c, .trMakeOpen p c, .trBreakOpen p c] t = .next u ∧
      u.tx = t.tx ++ (keyMessage (8 * p.toNat + c.toNat) false ++ keyMessage (8 * p.toNat + c.toNat) true)

/-- Make bounce while held (R207, a rule the spec derives): note-on, note-off, then nothing. -/
def Obligations.MakeBounceWhileHeldEndsTheNote : Prop :=
  ∀ (p : RowPair) (c : Column) (s : State), s.onSentAt (8 * p.toNat + c.toNat) = false →
    s.offSentAt (8 * p.toNat + c.toNat) = false →
    ∃ t, execAll [.trMakeClose p c, .trMakeOpen p c, .trMakeClose p c] s = .next t ∧
      t.tx = s.tx ++ (keyMessage (8 * p.toNat + c.toNat) true ++ keyMessage (8 * p.toNat + c.toNat) false) ∧
      t.onSentAt (8 * p.toNat + c.toNat) = true ∧ t.offSentAt (8 * p.toNat + c.toNat) = true

/-- The clamp flag is sticky and is set exactly by a handled row whose raw pitch exceeds 96 (R31, R142). -/
def Obligations.ClampSeenIsStickyAndExact : Prop :=
  ∀ s t : State, s.Undisturbed 1 → step s = .next t →
    (s.phase = .handle → ∀ r : Row, s.changed.getLsbD r.toNat = true → (∀ q < r.toNat, s.changed.getLsbD q = false) →
      t.clampSeen = (s.clampSeen || clampsAt (8 * (r.toNat / 2) + s.activeColumn.toNat))) ∧
    (s.phase ≠ .handle ∨ s.changed = 0#32 → t.clampSeen = s.clampSeen)

/-- The first closure of every contact after reset is observed (R202, a rule the spec derives): a tick that finds closed a
row that every earlier tick of its column since reset found open hands that row on as closed, and if it is a make row
sends its key's note-on. With fewer than eight earlier ticks it is the first tick of the column, and a contact closed
already at reset is seen as closing. -/
def Obligations.FirstPressAfterResetIsObserved : Prop :=
  ∀ (earlier : List (MuxAddr → Sense)) (words : MuxAddr → Sense) (r : Row) (c : Column),
    c.toNat = earlier.length % 8 →
    (∀ (j : Nat) (h : j < earlier.length), j % 8 = c.toNat → (sampleColumn earlier[j] 0).getLsbD r.toNat = false) →
    (sampleColumn words 0).getLsbD r.toNat = true →
    ∃ t u, ticks earlier State.reset = .next t ∧ tick words t = .next u ∧ t.activeColumn = c ∧
      (r, c, true) ∈ transitionsOf c (sampleColumn words 0) (sampleColumn words 0 ^^^ t.snapAt c) ∧
      (contactOf r = .make → ∃ ms, u.tx = t.tx ++ u.txPresentedSince t ∧ readMessages (u.txPresentedSince t) = .ok ms ∧
        Instr.msgNoteOn (channelOf (keyOf r c)) (pitchOf (keyOf r c)) ∈ ms)

/-! ### MIDI encoder -/

/-- R151: MSG_NOTE_ON appends its three bytes. -/
def Obligations.NoteOnAppendsItsBytes : Prop :=
  ∀ (channel pitch : Byte) (s : State), channel.toNat ≤ 1 → pitch.toNat ≤ 127 →
    exec (.msgNoteOn channel pitch) s = .next { s with tx := s.tx ++ [0x90 ||| channel, pitch, 0x7F] } ∧
    (encode (.msgNoteOn channel pitch)).bits &&& 0xFE80FF = 0x90007F

/-- R152: MSG_NOTE_OFF appends its three bytes. -/
def Obligations.NoteOffAppendsItsBytes : Prop :=
  ∀ (channel pitch : Byte) (s : State), channel.toNat ≤ 1 → pitch.toNat ≤ 127 →
    exec (.msgNoteOff channel pitch) s = .next { s with tx := s.tx ++ [0x80 ||| channel, pitch, 0x00] } ∧
    (encode (.msgNoteOff channel pitch)).bits &&& 0xFE80FF = 0x800000

/-- R150: `sendNote` performs one of the two messages, emits exactly three bytes, refuses arguments outside its domain,
and the block calls it with pitch 36..96 only, so that it never refuses inside the block. -/
def Obligations.SendNoteDispatchesAndRefuses : Prop :=
  (∀ (channel pitch : Byte) (on : Bool) (s : State), channel.toNat ≤ 1 → pitch.toNat ≤ 127 →
    sendNote channel pitch on s = exec (if on then .msgNoteOn channel pitch else .msgNoteOff channel pitch) s ∧
    ∃ t bytes, sendNote channel pitch on s = .next t ∧ t.tx = s.tx ++ bytes ∧ bytes.length = 3) ∧
  (∀ (channel pitch : Byte) (s : State), channel.toNat > 1 ∨ pitch.toNat > 127 →
    exec (.msgNoteOn channel pitch) s = .refused (.outsideEncoderDomain channel pitch) ∧
    exec (.msgNoteOff channel pitch) s = .refused (.outsideEncoderDomain channel pitch)) ∧
  ∀ (r : Row) (c : Column), (channelOf (keyOf r c)).toNat ≤ 1 ∧ 36 ≤ (pitchOf (keyOf r c)).toNat ∧
    (pitchOf (keyOf r c)).toNat ≤ 96

/-- R44: a message is three bytes appended to `tx` in one HANDLE_TRANSITION step, contiguously and in order; no other
step of the block changes `tx`. -/
def Obligations.MessagesAreAppendedWholeInOneStep : Prop :=
  ∀ s t : State, s.Undisturbed 1 → step s = .next t →
    t.tx = s.tx ∨ (s.phase = .handle ∧ ∃ key on, key ≤ 127 ∧ t.tx = s.tx ++ keyMessage key on)

/-- `tx` is empty at reset and append-only (R32). A run of the block of any length keeps the bytes that are in it and adds
those that the port presents (R153); that the port's bytes are computed from `tx` is the model's reading (log entry
12). -/
def Obligations.TxIsAppendOnly : Prop :=
  State.reset.tx = [] ∧
  ∀ (n : Nat) (s : State), s.Undisturbed n → ∃ t, runSteps n s = .next t ∧ t.tx = s.tx ++ t.txPresentedSince s

/-! ### Encodings -/

/-- Decode and encode agree: every well-formed operation is read back from its word, and every word that is an
operation is that operation's word. -/
def Obligations.DecodeEncodeAgree : Prop :=
  (∀ i : Instr, i.wellFormed = true → decodeTableWord (encode i).nbits (encode i).bits = some i) ∧
  ∀ (nbits w : Nat) (i : Instr), decodeTableWord nbits w = some i → i.wellFormed = true ∧ encode i = ⟨nbits, w⟩

/-- Each descriptor selects the operation of its match and mask row (R65); that every descriptor selects one of the four
the spec derives of R64. The operands, row pair and column, are the model's (log entry 14). -/
def Obligations.DescriptorSelectsByMatchAndMask : Prop :=
  ∀ t : TransWord,
    (t &&& 0x108#9 = 0x100#9 → decodeTrans t = .trMakeClose (t.extractLsb' 4 4) (t.extractLsb' 0 3)) ∧
    (t &&& 0x108#9 = 0x000#9 → decodeTrans t = .trMakeOpen (t.extractLsb' 4 4) (t.extractLsb' 0 3)) ∧
    (t &&& 0x108#9 = 0x108#9 → decodeTrans t = .trBreakClose (t.extractLsb' 4 4) (t.extractLsb' 0 3)) ∧
    (t &&& 0x108#9 = 0x008#9 → decodeTrans t = .trBreakOpen (t.extractLsb' 4 4) (t.extractLsb' 0 3)) ∧
    (t &&& 0x108#9 = 0x100#9 ∨ t &&& 0x108#9 = 0x000#9 ∨ t &&& 0x108#9 = 0x108#9 ∨ t &&& 0x108#9 = 0x008#9)

/-- R64: the packing `T = closed*256 + row*8 + column` and its three fields. -/
def Obligations.DescriptorPacksRowColumnClosed : Prop :=
  ∀ (r : Row) (c : Column) (closed : Bool),
    (packTrans r c closed).toNat = closed.toNat * 256 + r.toNat * 8 + c.toNat ∧
    (packTrans r c closed).extractLsb' 3 5 = r ∧ (packTrans r c closed).extractLsb' 0 3 = c ∧
    (packTrans r c closed).getLsbD 8 = closed ∧ (packTrans r c closed).getLsbD 3 = r.getLsbD 0

/-- A byte stream made of messages is read back as those messages, by position (R70). -/
def Obligations.MessageStreamIsReadBackByPosition : Prop :=
  ∀ msgs : List (Byte × Byte × Bool), (∀ m ∈ msgs, m.1.toNat ≤ 1 ∧ m.2.1.toNat ≤ 127) →
    readMessages (msgs.flatMap fun m => if m.2.2 then noteOnBytes m.1 m.2.1 else noteOffBytes m.1 m.2.1) =
      .ok (msgs.map fun m => if m.2.2 then .msgNoteOn m.1 m.2.1 else .msgNoteOff m.1 m.2.1)

/-- Words written out from the encodings of R65, R66, R67 and R71 decode to their operations. -/
def Obligations.SampleWordsDecode : Prop :=
  decodeTableWord 8 0b100 = some .readSense ∧ decodeTableWord 8 0b111 = some .advanceColumn ∧
  decodeTableWord 16 0b101100110 = some (.trMakeClose 6 6) ∧ decodeTableWord 16 0b001101110 = some (.trBreakOpen 6 6) ∧
  decodeTableWord 24 0x91247F = some (.msgNoteOn 1 36) ∧ decodeTableWord 24 0x806000 = some (.msgNoteOff 0 96) ∧
  decodeTableWord 24 0x92247F = none ∧ decodeTableWord 24 0x91A47F = none

/-! ### The invariant and the tick -/

/-- The state after reset meets the invariant. -/
def Obligations.ResetMeetsTheInvariant : Prop := State.reset.Inv

/-- Every step from a state with the invariant answers a next state that has it, under any port levels, `rst` included
(R25, R27, R29, R69, R70, R101; R22 and R23). -/
def Obligations.StepKeepsTheInvariant : Prop :=
  ∀ s : State, s.Inv → ∃ t, step s = .next t ∧ t.Inv

/-- Every state with the invariant has whole messages in `tx`: byte `3i` is a status byte and the only byte of its
message with bit 7 set, and only the block's status, pitch and velocity values occur (R69, R70). -/
def Obligations.TxHasOnlyWholeBlockMessages : Prop :=
  ∀ s : State, s.Inv → s.tx.length % 3 = 0 ∧
    ∀ n, 3 * n < s.tx.length → ∃ st p v, s.tx[3 * n]? = some st ∧ s.tx[3 * n + 1]? = some p ∧ s.tx[3 * n + 2]? = some v ∧
      (st = 0x90 ∨ st = 0x91 ∨ st = 0x80 ∨ st = 0x81) ∧ 36 ≤ p.toNat ∧ p.toNat ≤ 96 ∧
      v = (if st.getLsbD 4 then 0x7F else 0x00)

/-- The tick as one step (R162, R166; rules the spec derives): from IDLE with `tickReq` at 1 and `rst` low throughout,
the IDLE_WAIT and the `28 + d` steps after it, `d` the number of changed rows, are the big step TICK on the eight sense
words that the READ steps draw. -/
def Obligations.StepsOfATickAreTheBigStep : Prop :=
  ∀ s : State, s.phase = .idle → s.levels.tickReq = true →
    s.Undisturbed (29 + popcount (sampleColumn (fun m => (s.levelsAt (4 + 3 * m.toNat)).sense) 0 ^^^
      s.snapAt s.activeColumn)) →
    ∃ t, tick (fun m => (s.levelsAt (4 + 3 * m.toNat)).sense) s = .next t ∧
      runSteps (29 + popcount (sampleColumn (fun m => (s.levelsAt (4 + 3 * m.toNat)).sense) 0 ^^^
        s.snapAt s.activeColumn)) s =
        .next (t.elapse (29 + popcount (sampleColumn (fun m => (s.levelsAt (4 + 3 * m.toNat)).sense) 0 ^^^
          s.snapAt s.activeColumn))) ∧
      t.phase = .idle ∧ t.muxAddr = 7 ∧ t.addrCur = 8 ∧ t.changed = 0 ∧
      t.rowVec = sampleColumn (fun m => (s.levelsAt (4 + 3 * m.toNat)).sense) 0 ∧
      t.snapAt s.activeColumn = t.rowVec ∧ t.activeColumn = s.activeColumn + 1

/-- A tick that samples what the snapshot holds causes no transition (R124, a rule the spec derives). -/
def Obligations.UnchangedSampleCausesNoTransition : Prop :=
  ∀ (words : MuxAddr → Sense) (s : State), sampleColumn words 0 = s.snapAt s.activeColumn →
    ∃ t, tick words s = .next t ∧ t.tx = s.tx ∧ t.onSent = s.onSent ∧ t.offSent = s.offSent ∧
      t.clampSeen = s.clampSeen ∧ ∀ c, t.snapAt c = s.snapAt c
end

