-- ==== Sys2Proof/Laws/Decode.lean ====
section
/-! SUPPORT. Reading a byte stream of messages (R70). -/

namespace Sys2Proof

/-- A stream that reads as messages, followed by another stream, reads as the messages of both (R70). -/
theorem readMessages_append (a b : List Byte) (ms : List Instr) (h : readMessages a = .ok ms) :
    readMessages (a ++ b) = match readMessages b with
      | .ok ns => .ok (ms ++ ns)
      | .error e => .error e := by
  match a with
  | [] =>
    injection h with h
    subst h
    simp only [List.nil_append]
    cases readMessages b <;> rfl
  | [x] => simp [readMessages] at h
  | [x, y] => simp [readMessages] at h
  | x :: y :: z :: rest =>
    simp only [readMessages] at h
    split at h
    · rename_i i is hi his
      injection h with h
      subst h
      simp only [List.cons_append, readMessages, hi, readMessages_append rest b is his]
      cases readMessages b <;> rfl
    · exact absurd h (by simp)
    · exact absurd h (by simp)

end Sys2Proof
end

