-- ==== Sys2Proof/Laws/State.lean ====
section
/-! SUPPORT. One lemma for each field of each named update of State, all true by `rfl`. -/

namespace Sys2Proof.Machine

/-! ### setOnSent -/

@[simp] theorem State.setOnSent_phase (s : State) (key : Nat) (b : Bool) : (s.setOnSent key b).phase = s.phase := rfl
@[simp] theorem State.setOnSent_activeColumn (s : State) (key : Nat) (b : Bool) : (s.setOnSent key b).activeColumn = s.activeColumn := rfl
@[simp] theorem State.setOnSent_colDrive (s : State) (key : Nat) (b : Bool) : (s.setOnSent key b).colDrive = s.colDrive := rfl
@[simp] theorem State.setOnSent_muxAddr (s : State) (key : Nat) (b : Bool) : (s.setOnSent key b).muxAddr = s.muxAddr := rfl
@[simp] theorem State.setOnSent_addrCur (s : State) (key : Nat) (b : Bool) : (s.setOnSent key b).addrCur = s.addrCur := rfl
@[simp] theorem State.setOnSent_rowVec (s : State) (key : Nat) (b : Bool) : (s.setOnSent key b).rowVec = s.rowVec := rfl
@[simp] theorem State.setOnSent_changed (s : State) (key : Nat) (b : Bool) : (s.setOnSent key b).changed = s.changed := rfl
@[simp] theorem State.setOnSent_snap (s : State) (key : Nat) (b : Bool) : (s.setOnSent key b).snap = s.snap := rfl
@[simp] theorem State.setOnSent_onSent (s : State) (key : Nat) (b : Bool) : (s.setOnSent key b).onSent = setBit s.onSent key b := rfl
@[simp] theorem State.setOnSent_offSent (s : State) (key : Nat) (b : Bool) : (s.setOnSent key b).offSent = s.offSent := rfl
@[simp] theorem State.setOnSent_clampSeen (s : State) (key : Nat) (b : Bool) : (s.setOnSent key b).clampSeen = s.clampSeen := rfl
@[simp] theorem State.setOnSent_tx (s : State) (key : Nat) (b : Bool) : (s.setOnSent key b).tx = s.tx := rfl
@[simp] theorem State.setOnSent_inputs (s : State) (key : Nat) (b : Bool) : (s.setOnSent key b).inputs = s.inputs := rfl
@[simp] theorem State.setOnSent_steps (s : State) (key : Nat) (b : Bool) : (s.setOnSent key b).steps = s.steps := rfl
@[simp] theorem State.setOnSent_entry (s : State) (key : Nat) (b : Bool) : (s.setOnSent key b).entry = s.entry := rfl

/-! ### setOffSent -/

@[simp] theorem State.setOffSent_phase (s : State) (key : Nat) (b : Bool) : (s.setOffSent key b).phase = s.phase := rfl
@[simp] theorem State.setOffSent_activeColumn (s : State) (key : Nat) (b : Bool) : (s.setOffSent key b).activeColumn = s.activeColumn := rfl
@[simp] theorem State.setOffSent_colDrive (s : State) (key : Nat) (b : Bool) : (s.setOffSent key b).colDrive = s.colDrive := rfl
@[simp] theorem State.setOffSent_muxAddr (s : State) (key : Nat) (b : Bool) : (s.setOffSent key b).muxAddr = s.muxAddr := rfl
@[simp] theorem State.setOffSent_addrCur (s : State) (key : Nat) (b : Bool) : (s.setOffSent key b).addrCur = s.addrCur := rfl
@[simp] theorem State.setOffSent_rowVec (s : State) (key : Nat) (b : Bool) : (s.setOffSent key b).rowVec = s.rowVec := rfl
@[simp] theorem State.setOffSent_changed (s : State) (key : Nat) (b : Bool) : (s.setOffSent key b).changed = s.changed := rfl
@[simp] theorem State.setOffSent_snap (s : State) (key : Nat) (b : Bool) : (s.setOffSent key b).snap = s.snap := rfl
@[simp] theorem State.setOffSent_onSent (s : State) (key : Nat) (b : Bool) : (s.setOffSent key b).onSent = s.onSent := rfl
@[simp] theorem State.setOffSent_offSent (s : State) (key : Nat) (b : Bool) : (s.setOffSent key b).offSent = setBit s.offSent key b := rfl
@[simp] theorem State.setOffSent_clampSeen (s : State) (key : Nat) (b : Bool) : (s.setOffSent key b).clampSeen = s.clampSeen := rfl
@[simp] theorem State.setOffSent_tx (s : State) (key : Nat) (b : Bool) : (s.setOffSent key b).tx = s.tx := rfl
@[simp] theorem State.setOffSent_inputs (s : State) (key : Nat) (b : Bool) : (s.setOffSent key b).inputs = s.inputs := rfl
@[simp] theorem State.setOffSent_steps (s : State) (key : Nat) (b : Bool) : (s.setOffSent key b).steps = s.steps := rfl
@[simp] theorem State.setOffSent_entry (s : State) (key : Nat) (b : Bool) : (s.setOffSent key b).entry = s.entry := rfl

/-! ### monitorClamp -/

@[simp] theorem State.monitorClamp_phase (s : State) (key : Nat) : (s.monitorClamp key).phase = s.phase := rfl
@[simp] theorem State.monitorClamp_activeColumn (s : State) (key : Nat) : (s.monitorClamp key).activeColumn = s.activeColumn := rfl
@[simp] theorem State.monitorClamp_colDrive (s : State) (key : Nat) : (s.monitorClamp key).colDrive = s.colDrive := rfl
@[simp] theorem State.monitorClamp_muxAddr (s : State) (key : Nat) : (s.monitorClamp key).muxAddr = s.muxAddr := rfl
@[simp] theorem State.monitorClamp_addrCur (s : State) (key : Nat) : (s.monitorClamp key).addrCur = s.addrCur := rfl
@[simp] theorem State.monitorClamp_rowVec (s : State) (key : Nat) : (s.monitorClamp key).rowVec = s.rowVec := rfl
@[simp] theorem State.monitorClamp_changed (s : State) (key : Nat) : (s.monitorClamp key).changed = s.changed := rfl
@[simp] theorem State.monitorClamp_snap (s : State) (key : Nat) : (s.monitorClamp key).snap = s.snap := rfl
@[simp] theorem State.monitorClamp_onSent (s : State) (key : Nat) : (s.monitorClamp key).onSent = s.onSent := rfl
@[simp] theorem State.monitorClamp_offSent (s : State) (key : Nat) : (s.monitorClamp key).offSent = s.offSent := rfl
@[simp] theorem State.monitorClamp_clampSeen (s : State) (key : Nat) : (s.monitorClamp key).clampSeen = (s.clampSeen || decide (rawPitch key > Config.pitchMax)) := rfl
@[simp] theorem State.monitorClamp_tx (s : State) (key : Nat) : (s.monitorClamp key).tx = s.tx := rfl
@[simp] theorem State.monitorClamp_inputs (s : State) (key : Nat) : (s.monitorClamp key).inputs = s.inputs := rfl
@[simp] theorem State.monitorClamp_steps (s : State) (key : Nat) : (s.monitorClamp key).steps = s.steps := rfl
@[simp] theorem State.monitorClamp_entry (s : State) (key : Nat) : (s.monitorClamp key).entry = s.entry := rfl

/-! ### setSnap -/

@[simp] theorem State.setSnap_phase (s : State) (c : Column) (v : RowBits) : (s.setSnap c v).phase = s.phase := rfl
@[simp] theorem State.setSnap_activeColumn (s : State) (c : Column) (v : RowBits) : (s.setSnap c v).activeColumn = s.activeColumn := rfl
@[simp] theorem State.setSnap_colDrive (s : State) (c : Column) (v : RowBits) : (s.setSnap c v).colDrive = s.colDrive := rfl
@[simp] theorem State.setSnap_muxAddr (s : State) (c : Column) (v : RowBits) : (s.setSnap c v).muxAddr = s.muxAddr := rfl
@[simp] theorem State.setSnap_addrCur (s : State) (c : Column) (v : RowBits) : (s.setSnap c v).addrCur = s.addrCur := rfl
@[simp] theorem State.setSnap_rowVec (s : State) (c : Column) (v : RowBits) : (s.setSnap c v).rowVec = s.rowVec := rfl
@[simp] theorem State.setSnap_changed (s : State) (c : Column) (v : RowBits) : (s.setSnap c v).changed = s.changed := rfl
@[simp] theorem State.setSnap_snap (s : State) (c : Column) (v : RowBits) : (s.setSnap c v).snap = s.snap.set c.toNat v c.isLt := rfl
@[simp] theorem State.setSnap_onSent (s : State) (c : Column) (v : RowBits) : (s.setSnap c v).onSent = s.onSent := rfl
@[simp] theorem State.setSnap_offSent (s : State) (c : Column) (v : RowBits) : (s.setSnap c v).offSent = s.offSent := rfl
@[simp] theorem State.setSnap_clampSeen (s : State) (c : Column) (v : RowBits) : (s.setSnap c v).clampSeen = s.clampSeen := rfl
@[simp] theorem State.setSnap_tx (s : State) (c : Column) (v : RowBits) : (s.setSnap c v).tx = s.tx := rfl
@[simp] theorem State.setSnap_inputs (s : State) (c : Column) (v : RowBits) : (s.setSnap c v).inputs = s.inputs := rfl
@[simp] theorem State.setSnap_steps (s : State) (c : Column) (v : RowBits) : (s.setSnap c v).steps = s.steps := rfl
@[simp] theorem State.setSnap_entry (s : State) (c : Column) (v : RowBits) : (s.setSnap c v).entry = s.entry := rfl

/-! ### emit -/

@[simp] theorem State.emit_phase (s : State) (bytes : List Byte) : (s.emit bytes).phase = s.phase := rfl
@[simp] theorem State.emit_activeColumn (s : State) (bytes : List Byte) : (s.emit bytes).activeColumn = s.activeColumn := rfl
@[simp] theorem State.emit_colDrive (s : State) (bytes : List Byte) : (s.emit bytes).colDrive = s.colDrive := rfl
@[simp] theorem State.emit_muxAddr (s : State) (bytes : List Byte) : (s.emit bytes).muxAddr = s.muxAddr := rfl
@[simp] theorem State.emit_addrCur (s : State) (bytes : List Byte) : (s.emit bytes).addrCur = s.addrCur := rfl
@[simp] theorem State.emit_rowVec (s : State) (bytes : List Byte) : (s.emit bytes).rowVec = s.rowVec := rfl
@[simp] theorem State.emit_changed (s : State) (bytes : List Byte) : (s.emit bytes).changed = s.changed := rfl
@[simp] theorem State.emit_snap (s : State) (bytes : List Byte) : (s.emit bytes).snap = s.snap := rfl
@[simp] theorem State.emit_onSent (s : State) (bytes : List Byte) : (s.emit bytes).onSent = s.onSent := rfl
@[simp] theorem State.emit_offSent (s : State) (bytes : List Byte) : (s.emit bytes).offSent = s.offSent := rfl
@[simp] theorem State.emit_clampSeen (s : State) (bytes : List Byte) : (s.emit bytes).clampSeen = s.clampSeen := rfl
@[simp] theorem State.emit_tx (s : State) (bytes : List Byte) : (s.emit bytes).tx = s.tx ++ bytes := rfl
@[simp] theorem State.emit_inputs (s : State) (bytes : List Byte) : (s.emit bytes).inputs = s.inputs := rfl
@[simp] theorem State.emit_steps (s : State) (bytes : List Byte) : (s.emit bytes).steps = s.steps := rfl
@[simp] theorem State.emit_entry (s : State) (bytes : List Byte) : (s.emit bytes).entry = s.entry := rfl

/-! ### elapse -/

@[simp] theorem State.elapse_phase (s : State) (n : Nat) : (s.elapse n).phase = s.phase := rfl
@[simp] theorem State.elapse_activeColumn (s : State) (n : Nat) : (s.elapse n).activeColumn = s.activeColumn := rfl
@[simp] theorem State.elapse_colDrive (s : State) (n : Nat) : (s.elapse n).colDrive = s.colDrive := rfl
@[simp] theorem State.elapse_muxAddr (s : State) (n : Nat) : (s.elapse n).muxAddr = s.muxAddr := rfl
@[simp] theorem State.elapse_addrCur (s : State) (n : Nat) : (s.elapse n).addrCur = s.addrCur := rfl
@[simp] theorem State.elapse_rowVec (s : State) (n : Nat) : (s.elapse n).rowVec = s.rowVec := rfl
@[simp] theorem State.elapse_changed (s : State) (n : Nat) : (s.elapse n).changed = s.changed := rfl
@[simp] theorem State.elapse_snap (s : State) (n : Nat) : (s.elapse n).snap = s.snap := rfl
@[simp] theorem State.elapse_onSent (s : State) (n : Nat) : (s.elapse n).onSent = s.onSent := rfl
@[simp] theorem State.elapse_offSent (s : State) (n : Nat) : (s.elapse n).offSent = s.offSent := rfl
@[simp] theorem State.elapse_clampSeen (s : State) (n : Nat) : (s.elapse n).clampSeen = s.clampSeen := rfl
@[simp] theorem State.elapse_tx (s : State) (n : Nat) : (s.elapse n).tx = s.tx := rfl
@[simp] theorem State.elapse_inputs (s : State) (n : Nat) : (s.elapse n).inputs = s.inputs.drop n := rfl
@[simp] theorem State.elapse_steps (s : State) (n : Nat) : (s.elapse n).steps = s.steps + n := rfl
@[simp] theorem State.elapse_entry (s : State) (n : Nat) : (s.elapse n).entry = none := rfl

/-! ### applyRst -/

@[simp] theorem State.applyRst_phase (s : State) : (s.applyRst).phase = State.reset.phase := rfl
@[simp] theorem State.applyRst_activeColumn (s : State) : (s.applyRst).activeColumn = State.reset.activeColumn := rfl
@[simp] theorem State.applyRst_colDrive (s : State) : (s.applyRst).colDrive = State.reset.colDrive := rfl
@[simp] theorem State.applyRst_muxAddr (s : State) : (s.applyRst).muxAddr = State.reset.muxAddr := rfl
@[simp] theorem State.applyRst_addrCur (s : State) : (s.applyRst).addrCur = State.reset.addrCur := rfl
@[simp] theorem State.applyRst_rowVec (s : State) : (s.applyRst).rowVec = State.reset.rowVec := rfl
@[simp] theorem State.applyRst_changed (s : State) : (s.applyRst).changed = State.reset.changed := rfl
@[simp] theorem State.applyRst_snap (s : State) : (s.applyRst).snap = State.reset.snap := rfl
@[simp] theorem State.applyRst_onSent (s : State) : (s.applyRst).onSent = State.reset.onSent := rfl
@[simp] theorem State.applyRst_offSent (s : State) : (s.applyRst).offSent = State.reset.offSent := rfl
@[simp] theorem State.applyRst_clampSeen (s : State) : (s.applyRst).clampSeen = State.reset.clampSeen := rfl
@[simp] theorem State.applyRst_tx (s : State) : (s.applyRst).tx = State.reset.tx := rfl
@[simp] theorem State.applyRst_inputs (s : State) : (s.applyRst).inputs = s.inputs := rfl
@[simp] theorem State.applyRst_steps (s : State) : (s.applyRst).steps = s.steps := rfl
@[simp] theorem State.applyRst_entry (s : State) : (s.applyRst).entry = State.reset.entry := rfl

end Sys2Proof.Machine
end

