-- ==== Sys2Proof/Laws/Ops.lean ====
section
/-! SUPPORT. What each shared operation does, said once: bit writes, the key mapping, the change iterator, the encoder
and the four transitions. -/

namespace Sys2Proof.Machine

/-! ### Bits -/

theorem getLsbD_setBit {n : Nat} (v : BitVec n) (i j : Nat) (b : Bool) :
    (setBit v i b).getLsbD j = if j = i ∧ j < n then b else v.getLsbD j := by
  unfold setBit
  have key : (1#n <<< i).getLsbD j = (decide (j = i) && decide (j < n)) := by
    simp only [BitVec.getLsbD_shiftLeft, BitVec.getLsbD_one]
    by_cases h1 : j < n <;> by_cases h2 : j = i <;> by_cases h3 : j < i <;> simp [h1, h2, h3] <;> omega
  cases b
  · simp only [Bool.false_eq_true, if_false, BitVec.getLsbD_and, BitVec.getLsbD_not, key]
    by_cases h1 : j < n
    · by_cases h2 : j = i <;> simp [h1, h2]
      subst h2; simp [h1]
    · simp [h1, BitVec.getLsbD_of_ge v j (by omega)]
  · simp only [if_true, BitVec.getLsbD_or, key]
    by_cases h1 : j < n <;> by_cases h2 : j = i
    · subst h2; simp [h1]
    · simp [h2]
    · simp [h1]
    · simp [h2]

theorem onehot8_getLsbD (c : Column) (i : Nat) (h : i < 8) :
    (onehot8 c).getLsbD i = decide (i = c.toNat) := by
  revert c i; decide

theorem getLsbD_placeSense (m : MuxAddr) (w : Sense) (v : RowBits) (r : Nat) (hr : r < 32) :
    (placeSense m w v).getLsbD r =
      if r % 16 / 2 = m.toNat then w.getLsbD (2 * (r / 16) + r % 2) else v.getLsbD r := by
  have hm := m.isLt
  simp only [placeSense, getLsbD_setBit, hr, and_true]
  have h : r / 16 = 0 ∨ r / 16 = 1 := by omega
  have h2 : r % 2 = 0 ∨ r % 2 = 1 := by omega
  rcases h with h | h <;> rcases h2 with h2 | h2 <;> rw [h, h2] <;>
    (split_ifs <;> first | rfl | omega)

/-! ### Snapshots -/

theorem snapAt_setSnap (s : State) (c c' : Column) (v : RowBits) :
    (s.setSnap c v).snapAt c' = if c' = c then v else s.snapAt c' := by
  simp only [State.snapAt, State.setSnap, Vector.get_eq_getElem, Vector.getElem_set]
  by_cases h : c' = c
  · simp [h]
  · have : ¬ c.toNat = c'.toNat := fun e => h (BitVec.eq_of_toNat_eq e.symm)
    simp [h, this]

/-! ### The change iterator -/

theorem leastRowFrom_spec (v : RowBits) (n r : Nat) (h : ∃ q, r ≤ q ∧ q < r + n ∧ v.getLsbD q = true) :
    r ≤ leastRowFrom v r n ∧ leastRowFrom v r n < r + n ∧ v.getLsbD (leastRowFrom v r n) = true ∧
      ∀ q, r ≤ q → q < leastRowFrom v r n → v.getLsbD q = false := by
  induction n generalizing r with
  | zero => obtain ⟨q, h1, h2, _⟩ := h; omega
  | succ n ih =>
    unfold leastRowFrom
    by_cases hb : v.getLsbD r = true
    · simp only [hb, if_true]; exact ⟨le_refl _, by omega, trivial, fun q h1 h2 => by omega⟩
    · simp only [hb]
      obtain ⟨q, h1, h2, h3⟩ := h
      have hne : q ≠ r := fun e => hb (e ▸ h3)
      obtain ⟨a, b, c, d⟩ := ih (r + 1) ⟨q, by omega, by omega, h3⟩
      refine ⟨by simp; omega, by simp; omega, by simpa using c, fun k h4 h5 => ?_⟩
      by_cases hk : k = r
      · subst hk; simpa using hb
      · exact d k (by omega) (by simpa using h5)

/-- The row HANDLE_TRANSITION takes: its bit is set and no lower one is (R121). -/
theorem leastRow_spec (v : RowBits) (h : v ≠ 0#32) :
    v.getLsbD (leastRow v).toNat = true ∧ ∀ q < (leastRow v).toNat, v.getLsbD q = false := by
  have hex : ∃ q, 0 ≤ q ∧ q < 0 + 32 ∧ v.getLsbD q = true := by
    by_contra hc
    apply h
    apply BitVec.eq_of_getLsbD_eq
    intro i hi
    have : v.getLsbD i ≠ true := fun e => hc ⟨i, by omega, by omega, e⟩
    simpa using this
  obtain ⟨-, b, c, d⟩ := leastRowFrom_spec v 32 0 hex
  have e : (leastRow v).toNat = leastRowFrom v 0 32 := by
    simp only [leastRow, BitVec.toNat_ofNat]; omega
  rw [e]; exact ⟨c, fun q hq => d q (by omega) hq⟩

/-- There is only one least row. -/
theorem leastRow_unique (v : RowBits) (r : Row) (h1 : v.getLsbD r.toNat = true)
    (h2 : ∀ q < r.toNat, v.getLsbD q = false) : v ≠ 0#32 ∧ leastRow v = r := by
  have h0 : v ≠ 0#32 := by rintro rfl; simp at h1
  obtain ⟨a, b⟩ := leastRow_spec v h0
  refine ⟨h0, BitVec.eq_of_toNat_eq ?_⟩
  rcases Nat.lt_trichotomy (leastRow v).toNat r.toNat with h | h | h
  · rw [h2 _ h] at a; exact absurd a (by simp)
  · exact h
  · rw [b _ h] at h1; exact absurd h1 (by simp)

/-! ### The key mapping and the encoder -/

/-- The pitch is the clamp of `36 + key mod 64`, and stays within 36..96 (R133). -/
theorem pitchOf_toNat (key : Nat) : (pitchOf key).toNat = min (36 + key % 64) 96 := by
  simp only [pitchOf, rawPitch, foldOf, Config.pitchBase, Config.pitchMin, Config.pitchMax, BitVec.toNat_ofNat]; omega

theorem channelOf_eq (key : Nat) : channelOf key = if key ≥ 64 then 0 else 1 := by
  unfold channelOf keyboardOf; split_ifs <;> rfl

theorem noteOnBytes_mapped (key : Nat) : noteOnBytes (channelOf key) (pitchOf key) = keyMessage key true := by
  simp [noteOnBytes, keyMessage, channelOf_eq, pitchOf, rawPitch, foldOf]

theorem noteOffBytes_mapped (key : Nat) : noteOffBytes (channelOf key) (pitchOf key) = keyMessage key false := by
  simp [noteOffBytes, keyMessage, channelOf_eq, pitchOf, rawPitch, foldOf]

/-- The mapping's channel and pitch lie in the encoder's domain (R150). -/
theorem mapped_inEncoderDomain (key : Nat) : inEncoderDomain (channelOf key) (pitchOf key) = true := by
  have h := pitchOf_toNat key
  have hc : (channelOf key).toNat ≤ 1 := by rw [channelOf_eq]; split_ifs <;> decide
  simp only [inEncoderDomain, Bool.and_eq_true, decide_eq_true_eq]
  omega

/-- `sendNote` appends the message inside its domain and refuses outside it (R150). -/
theorem sendNote_cases (channel pitch : Byte) (on : Bool) (s : State) :
    (inEncoderDomain channel pitch = true ∧ sendNote channel pitch on s =
      .next (s.emit (if on then noteOnBytes channel pitch else noteOffBytes channel pitch))) ∨
    (inEncoderDomain channel pitch = false ∧
      sendNote channel pitch on s = .refused (.outsideEncoderDomain channel pitch)) := by
  unfold sendNote; cases h : inEncoderDomain channel pitch <;> simp

/-- `sendNote` on a key's own channel and pitch always appends its message. -/
theorem sendNote_mapped (key : Nat) (on : Bool) (s : State) :
    sendNote (channelOf key) (pitchOf key) on s = .next (s.emit (keyMessage key on)) := by
  rcases sendNote_cases (channelOf key) (pitchOf key) on s with ⟨_, h⟩ | ⟨h, _⟩
  · rw [h]; cases on <;> simp [noteOnBytes_mapped, noteOffBytes_mapped]
  · rw [mapped_inEncoderDomain] at h; exact absurd h (by simp)

/-! ### The four transitions -/

theorem monitorClamp_eq (s : State) (key : Nat) :
    s.monitorClamp key = { s with clampSeen := s.clampSeen || clampsAt key } := rfl

theorem onSentAt_setOnSent (s : State) (key k : Nat) (b : Bool) (h : key < 256) :
    (s.setOnSent key b).onSentAt k = if k = key then b else s.onSentAt k := by
  simp only [State.onSentAt, State.setOnSent_onSent, getLsbD_setBit]
  by_cases e : k = key
  · simp [e, h]
  · simp [e]

theorem offSentAt_setOffSent (s : State) (key k : Nat) (b : Bool) (h : key < 256) :
    (s.setOffSent key b).offSentAt k = if k = key then b else s.offSentAt k := by
  simp only [State.offSentAt, State.setOffSent_offSent, getLsbD_setBit]
  by_cases e : k = key
  · simp [e, h]
  · simp [e]

/-- Everything a transition does: its next state, by contact type and new state (R135 to R139). -/
def transitionNext (contact : Contact) (closed : Bool) (key : Nat) (s : State) : State :=
  match contact, closed with
  | .brk, true => ((s.monitorClamp key).setOnSent key false).setOffSent key false
  | .brk, false => s.monitorClamp key
  | .make, true => if s.onSentAt key then s.monitorClamp key
      else ((s.monitorClamp key).setOnSent key true).emit (keyMessage key true)
  | .make, false => if s.offSentAt key then s.monitorClamp key
      else ((s.monitorClamp key).setOffSent key true).emit (keyMessage key false)

theorem transition_next (contact : Contact) (closed : Bool) (key : Nat) (s : State) :
    transition contact closed key s = .next (transitionNext contact closed key s) := by
  have hon : (s.monitorClamp key).onSentAt key = s.onSentAt key := rfl
  have hoff : (s.monitorClamp key).offSentAt key = s.offSentAt key := rfl
  cases contact <;> cases closed <;>
    simp only [transition, transitionNext, breakClose, breakOpen, makeClose, makeOpen, sendNote_mapped, hon, hoff] <;>
    split_ifs <;> rfl

theorem handleTransition_next (r : Row) (c : Column) (closed : Bool) (s : State) :
    handleTransition r c closed s = .next (transitionNext (contactOf r) closed (keyOf r c) s) :=
  transition_next _ _ _ _

/-- What a transition leaves alone, whichever it is. -/
theorem transitionNext_frame (contact : Contact) (closed : Bool) (key : Nat) (s : State) :
    transitionNext contact closed key s =
      { s with onSent := (transitionNext contact closed key s).onSent
               offSent := (transitionNext contact closed key s).offSent
               clampSeen := s.clampSeen || clampsAt key
               tx := (transitionNext contact closed key s).tx } := by
  cases contact <;> cases closed <;> simp only [transitionNext] <;> first | rfl | (split_ifs <;> rfl)

/-- What a transition appends to `tx`: nothing, or the message of its key. -/
theorem transitionNext_tx (contact : Contact) (closed : Bool) (key : Nat) (s : State) :
    (transitionNext contact closed key s).tx = s.tx ∨
      ∃ on, (transitionNext contact closed key s).tx = s.tx ++ keyMessage key on := by
  cases contact <;> cases closed <;> simp only [transitionNext]
  case make.false => split_ifs; exacts [.inl rfl, .inr ⟨_, rfl⟩]
  case make.true => split_ifs; exacts [.inl rfl, .inr ⟨_, rfl⟩]
  all_goals exact .inl rfl

/-- What a transition writes into the sent-flags: its own key's, by the table of R140. -/
theorem transitionNext_flags (contact : Contact) (closed : Bool) (key : Nat) (s : State) (k : Nat) (h : key < 256) :
    (transitionNext contact closed key s).onSentAt k = (if k = key then (match contact, closed with
      | .brk, true => false
      | .make, true => true
      | _, _ => s.onSentAt k) else s.onSentAt k) ∧
    (transitionNext contact closed key s).offSentAt k = (if k = key then (match contact, closed with
      | .brk, true => false
      | .make, false => true
      | _, _ => s.offSentAt k) else s.offSentAt k) := by
  have emitOn (s : State) (b : List Byte) : (s.emit b).onSentAt k = s.onSentAt k := rfl
  have emitOff (s : State) (b : List Byte) : (s.emit b).offSentAt k = s.offSentAt k := rfl
  have offOfOn (s : State) (j b) : (s.setOnSent j b).offSentAt k = s.offSentAt k := rfl
  have onOfOff (s : State) (j b) : (s.setOffSent j b).onSentAt k = s.onSentAt k := rfl
  have clampOn : (s.monitorClamp key).onSentAt k = s.onSentAt k := rfl
  have clampOff : (s.monitorClamp key).offSentAt k = s.offSentAt k := rfl
  cases contact <;> cases closed <;> simp only [transitionNext] <;> (try split_ifs) <;>
    simp_all [onSentAt_setOnSent, offSentAt_setOffSent]

/-! ### Selecting the operation -/

theorem decodeWord_encodePhase (p : Phase) : decodeWord (encodePhase p) = .ok p.operation := by
  cases p <;> rfl

/-- With nothing at the direct entry the step's operation is the phase's (R71). -/
theorem current_of_entry_none (s : State) (h : s.entry = none) : s.current = .ok s.phase.operation := by
  simp only [State.current, State.fetch, h, decodeWord_encodePhase]

@[simp] theorem andThen_next (s : State) (f : State → Result) : andThen (.next s) f = f s := rfl

/-- What the port presents is what was appended to `tx` (R153). -/
theorem txPresentedSince_of_append (s earlier : State) (bytes : List Byte) (h : s.tx = earlier.tx ++ bytes) :
    s.txPresentedSince earlier = bytes := by
  rw [State.txPresentedSince, h, List.drop_left]

end Sys2Proof.Machine
end

