-- ==== Sys2Proof/Laws/PerInstr.lean ====
section
/-! SUPPORT. Facts said once for each operation, as syntax. -/

namespace Sys2Proof.Laws

/-- An operation's word fits the bits the opcode table gives its row. -/
def EncodeFits.Statement (i : Instr) : Prop := (encode i).bits < 2 ^ (encode i).nbits

theorem encodePhase_fits (p : Phase) : (encodePhase p).bits < 2 ^ (encodePhase p).nbits := by
  cases p <;> decide

theorem encodeTrans_fits (pair : RowPair) (brk closed : Bool) (col : Column) :
    (encodeTrans pair brk closed col).bits < 2 ^ (encodeTrans pair brk closed col).nbits := by
  have hp := pair.isLt
  have hc := col.isLt
  cases brk <;> cases closed <;> simp only [encodeTrans, Bool.toNat_false, Bool.toNat_true] <;> omega

theorem encodeMessage_fits (a b c : Byte) :
    (encodeMessage [a, b, c]).bits < 2 ^ (encodeMessage [a, b, c]).nbits := by
  have ha := a.isLt
  have hb := b.isLt
  have hc := c.isLt
  simp only [encodeMessage, List.foldl]
  omega

theorem EncodeFits.idleWait : EncodeFits.Statement .idleWait := encodePhase_fits _

theorem EncodeFits.selectColumn : EncodeFits.Statement .selectColumn := encodePhase_fits _

theorem EncodeFits.setMuxAddr : EncodeFits.Statement .setMuxAddr := encodePhase_fits _

theorem EncodeFits.settleWait : EncodeFits.Statement .settleWait := encodePhase_fits _

theorem EncodeFits.readSense : EncodeFits.Statement .readSense := encodePhase_fits _

theorem EncodeFits.detectChanges : EncodeFits.Statement .detectChanges := encodePhase_fits _

theorem EncodeFits.handleTransition : EncodeFits.Statement .handleTransition := encodePhase_fits _

theorem EncodeFits.advanceColumn : EncodeFits.Statement .advanceColumn := encodePhase_fits _

theorem EncodeFits.trMakeClose (pair : RowPair) (col : Column) : EncodeFits.Statement (.trMakeClose pair col) :=
  encodeTrans_fits _ _ _ _

theorem EncodeFits.trMakeOpen (pair : RowPair) (col : Column) : EncodeFits.Statement (.trMakeOpen pair col) :=
  encodeTrans_fits _ _ _ _

theorem EncodeFits.trBreakClose (pair : RowPair) (col : Column) : EncodeFits.Statement (.trBreakClose pair col) :=
  encodeTrans_fits _ _ _ _

theorem EncodeFits.trBreakOpen (pair : RowPair) (col : Column) : EncodeFits.Statement (.trBreakOpen pair col) :=
  encodeTrans_fits _ _ _ _

theorem EncodeFits.msgNoteOn (channel pitch : Byte) : EncodeFits.Statement (.msgNoteOn channel pitch) :=
  encodeMessage_fits _ _ _

theorem EncodeFits.msgNoteOff (channel pitch : Byte) : EncodeFits.Statement (.msgNoteOff channel pitch) :=
  encodeMessage_fits _ _ _

end Sys2Proof.Laws
end

