-- ==== Sys2Proof/Laws/Step.lean ====
section
/-! SUPPORT. One equation for each operation that goes through a shared one, what a step of the block can do, and the
unrolling of a run. -/

namespace Sys2Proof.Machine

/-! ### Meanings -/

theorem exec_trMakeClose (p : RowPair) (c : Column) (s : State) :
    exec (.trMakeClose p c) s = .next (transitionNext .make true (keyOfPair p c) s) := by
  simp only [exec, execTrMakeClose, transition_next]

theorem exec_trMakeOpen (p : RowPair) (c : Column) (s : State) :
    exec (.trMakeOpen p c) s = .next (transitionNext .make false (keyOfPair p c) s) := by
  simp only [exec, execTrMakeOpen, transition_next]

theorem exec_trBreakClose (p : RowPair) (c : Column) (s : State) :
    exec (.trBreakClose p c) s = .next (transitionNext .brk true (keyOfPair p c) s) := by
  simp only [exec, execTrBreakClose, transition_next]

theorem exec_trBreakOpen (p : RowPair) (c : Column) (s : State) :
    exec (.trBreakOpen p c) s = .next (transitionNext .brk false (keyOfPair p c) s) := by
  simp only [exec, execTrBreakOpen, transition_next]

/-- The row HANDLE_TRANSITION consumes and hands on, as one state (R121). -/
def consumeRow (r : Row) (s : State) : State :=
  transitionNext (contactOf r) (s.rowVec.getLsbD r.toNat) (keyOf r s.activeColumn)
    { s with changed := setBit s.changed r.toNat false }

theorem exec_handleTransition (s : State) : exec .handleTransition s = .next
    (if s.changed = 0#32 then { s with phase := .advance } else consumeRow (leastRow s.changed) s) := by
  simp only [exec, execHandleTransition, handleTransition_next, consumeRow]
  split_ifs <;> rfl

theorem consumeRow_frame (r : Row) (s : State) :
    consumeRow r s = { s with changed := setBit s.changed r.toNat false
                              onSent := (consumeRow r s).onSent
                              offSent := (consumeRow r s).offSent
                              clampSeen := s.clampSeen || clampsAt (keyOf r s.activeColumn)
                              tx := (consumeRow r s).tx } := by
  unfold consumeRow; rw [transitionNext_frame]

/-! ### Steps -/

/-- With nothing at the direct entry a step is a reset or the phase's operation (R160, R201). -/
theorem step_of_entry_none (s : State) (h : s.entry = none) : step s =
    if s.levels.rst then .next (s.applyRst.elapse 1)
    else andThen (exec s.phase.operation s) fun t => .next (t.elapse 1) := by
  simp only [step, current_of_entry_none s h]; rfl

theorem levelsAt_elapse (s : State) (n k : Nat) : (s.elapse n).levelsAt k = s.levelsAt (n + k) := by
  simp only [State.levelsAt, State.elapse_inputs, State.elapse_steps, List.getElem?_drop, Nat.add_assoc]

theorem elapse_elapse (s : State) (a b : Nat) : (s.elapse a).elapse b = s.elapse (a + b) := by
  simp only [State.elapse, List.drop_drop, Nat.add_assoc]

/-- A phase's operation always answers a next state and leaves the model's own fields alone (R180). -/
theorem exec_operation_next (p : Phase) (s : State) : ∃ t, exec p.operation s = .next t ∧
    t.inputs = s.inputs ∧ t.steps = s.steps ∧ t.entry = s.entry := by
  cases p
  case handle =>
    refine ⟨_, exec_handleTransition s, ?_⟩
    split_ifs
    · exact ⟨rfl, rfl, rfl⟩
    · rw [consumeRow_frame]; exact ⟨rfl, rfl, rfl⟩
  all_goals exact ⟨_, rfl, rfl, rfl, rfl⟩

/-- One step of a run of any machine, by what the step answers. -/
theorem core_run_succ (M : Host.Core) (n : Nat) (x : M.State) :
    (∀ y, M.step x = .next y → M.run (n + 1) x = M.run n y) ∧
    (∀ f, M.step x = .fault f → M.run (n + 1) x = .fault f) ∧
    (∀ r, M.step x = .refused r → M.run (n + 1) x = .refused r) := by
  refine ⟨fun y h => ?_, fun f h => ?_, fun r h => ?_⟩ <;> simp only [Host.Core.run, h]

/-- A run of the model is the host's run of the machine behind Host/Core.lean. -/
theorem runSteps_eq_core_run (n : Nat) (s : State) : runSteps n s = Host.Core.run Sys2Proof.core n s := by
  induction n generalizing s with
  | zero => rfl
  | succ n ih =>
    obtain ⟨onNext, onFault, onRefused⟩ := core_run_succ Sys2Proof.core n s
    cases h : step s with
    | next t => exact (by simp only [runSteps, h, andThen, ih]; rfl : runSteps (n + 1) s = _).trans (onNext t h).symm
    | fault f => exact (by simp only [runSteps, h, andThen]; rfl : runSteps (n + 1) s = _).trans (onFault f h).symm
    | refused r => exact (by simp only [runSteps, h, andThen]; rfl : runSteps (n + 1) s = _).trans (onRefused r h).symm

end Sys2Proof.Machine
end

