-- ==== Sys2Proof/Laws/Tick.lean ====
section
/-! SUPPORT. What the mapper does over a sequence of transitions, as one state, and the big-step TICK in those terms. -/

namespace Sys2Proof.Machine

/-- The state the mapper leaves after a sequence of transitions (R167). -/
def transitionsNext : List (Row × Column × Bool) → State → State
  | [], s => s
  | (r, c, closed) :: ts, s => transitionsNext ts (transitionNext (contactOf r) closed (keyOf r c) s)

/-- The mapper never stops (R135). -/
theorem handleAll_next (ts : List (Row × Column × Bool)) (s : State) :
    handleAll ts s = .next (transitionsNext ts s) := by
  induction ts generalizing s with
  | nil => rfl
  | cons x ts ih =>
    obtain ⟨r, c, closed⟩ := x
    simp only [handleAll, handleTransition_next, andThen_next, transitionsNext, ih]

/-- What a sequence of transitions leaves alone. -/
theorem transitionsNext_frame (ts : List (Row × Column × Bool)) (s : State) :
    transitionsNext ts s = { s with onSent := (transitionsNext ts s).onSent
                                    offSent := (transitionsNext ts s).offSent
                                    clampSeen := (transitionsNext ts s).clampSeen
                                    tx := (transitionsNext ts s).tx } := by
  induction ts generalizing s with
  | nil => rfl
  | cons x ts ih =>
    obtain ⟨r, c, closed⟩ := x
    rw [transitionsNext, ih, transitionNext_frame]

/-- The state of a tick when its transitions are handed on: the column is sampled and its snapshot replaced (R162). -/
def sampledState (words : MuxAddr → Sense) (s : State) : State :=
  { s with colDrive := onehot8 s.activeColumn, muxAddr := 7, addrCur := 8, rowVec := sampleColumn words 0,
           changed := 0 }.setSnap s.activeColumn (sampleColumn words 0)

/-- Everything a tick does (R162). -/
theorem tick_next (words : MuxAddr → Sense) (s : State) : tick words s = .next
    { transitionsNext (transitionsOf s.activeColumn (sampleColumn words 0)
        (sampleColumn words 0 ^^^ s.snapAt s.activeColumn)) (sampledState words s) with
      activeColumn := s.activeColumn + 1, phase := .idle } := by
  unfold tick
  simp only [handleAll_next, andThen_next]
  rfl

end Sys2Proof.Machine
end

