-- ==== Sys2Proof/Tests/Slice0.lean ====
section
/-! SUPPORT. The model's own tests. Expected values come from the encodings of 30_encoding.md and from the vectors of
95_test_vectors.md (its section is named at each test); then one witness for the hypotheses of each statement. -/

namespace Sys2Proof.Tests

open Sys2Proof Sys2Proof.Machine

/-! ### Helpers -/

/-- The next state an outcome answers, if it does. -/
def nextOf : Result → Option State
  | .next s => some s
  | .fault _ => none
  | .refused _ => none

/-- One fact about the next state an outcome answers; false where it answers none. -/
def after (o : Result) (p : State → Bool) : Bool := ((nextOf o).map p).getD false

/-- The reason an outcome refuses for, if it does. -/
def refusalOf : Result → Option Refusal
  | .next _ => none
  | .fault _ => none
  | .refused r => some r

/-- The reset state with port levels at this step. -/
def start (rst tickReq : Bool) (sense : Sense) : State := { State.reset with inputs := [⟨rst, tickReq, sense⟩] }

/-- A state of the block in a phase of the tick of column 2, with `rst` low. -/
def inTick (p : Phase) (addrCur : BitVec 4) (muxAddr : MuxAddr) (rowVec changed : RowBits) : State :=
  { start false true 0b1010 with
    phase := p, activeColumn := 2, colDrive := 0x04, addrCur := addrCur, muxAddr := muxAddr, rowVec := rowVec,
    changed := changed }

/-- The same, with the active column's snapshot replaced. -/
def handling (p : Phase) (rowVec changed : RowBits) : State := (inTick p 8 7 rowVec changed).setSnap 2 rowVec

/-! ### Well-formedness: each check refuses a term -/

theorem test_wellFormed_noteOn : (Instr.msgNoteOn 1 127).wellFormed = true := by decide
theorem test_illFormed_noteOn_channel : (Instr.msgNoteOn 2 36).wellFormed = false := by decide
theorem test_illFormed_noteOn_pitch : (Instr.msgNoteOn 1 128).wellFormed = false := by decide
theorem test_illFormed_noteOff_channel : (Instr.msgNoteOff 2 36).wellFormed = false := by decide
theorem test_illFormed_noteOff_pitch : (Instr.msgNoteOff 0 128).wellFormed = false := by decide

/-! ### Decoding: words written out from R71, R65, R66 and R67 -/

theorem test_decode_idleWait : decodeTableWord 8 0b000 = some .idleWait := by decide
theorem test_decode_selectColumn : decodeTableWord 8 0b001 = some .selectColumn := by decide
theorem test_decode_setMuxAddr : decodeTableWord 8 0b010 = some .setMuxAddr := by decide
theorem test_decode_settleWait : decodeTableWord 8 0b011 = some .settleWait := by decide
theorem test_decode_readSense : decodeTableWord 8 0b100 = some .readSense := by decide
theorem test_decode_detectChanges : decodeTableWord 8 0b101 = some .detectChanges := by decide
theorem test_decode_handleTransition : decodeTableWord 8 0b110 = some .handleTransition := by decide
theorem test_decode_advanceColumn : decodeTableWord 8 0b111 = some .advanceColumn := by decide
/-- `1rrrr0ccc` at row 14 (pair 7), column 5. -/
theorem test_decode_trMakeClose : decodeTableWord 16 0b101110101 = some (.trMakeClose 7 5) := by decide
/-- `0rrrr0ccc` at row 16 (pair 8), column 0. -/
theorem test_decode_trMakeOpen : decodeTableWord 16 0b010000000 = some (.trMakeOpen 8 0) := by decide
/-- `1rrrr1ccc` at row 31 (pair 15), column 7. -/
theorem test_decode_trBreakClose : decodeTableWord 16 0b111111111 = some (.trBreakClose 15 7) := by decide
/-- `0rrrr1ccc` at row 1 (pair 0), column 3. -/
theorem test_decode_trBreakOpen : decodeTableWord 16 0b000001011 = some (.trBreakOpen 0 3) := by decide
/-- `1001000c 0ppppppp 01111111`: `91 24 7F`. -/
theorem test_decode_msgNoteOn : decodeTableWord 24 0b100100010010010001111111 = some (.msgNoteOn 1 36) := by decide
/-- `1000000c 0ppppppp 00000000`: `80 60 00`. -/
theorem test_decode_msgNoteOff : decodeTableWord 24 0b100000000110000000000000 = some (.msgNoteOff 0 96) := by decide

/-- Words that are no operation are refused by name. -/
theorem test_decode_refusals : decodeWord ⟨8, 8⟩ = .error (.tooWide 8 8) ∧
    decodeWord ⟨16, 512⟩ = .error (.tooWide 16 512) ∧ decodeWord ⟨24, 0x92247F⟩ = .error (.noSuchMessage 0x92247F) ∧
    decodeWord ⟨24, 0x910000⟩ = .error (.noSuchMessage 0x910000) ∧ decodeWord ⟨32, 0⟩ = .error (.noSuchFormat 32) := by
  decide

/-- Every constructor's word, from the encoder (R64, R71, D31). -/
theorem test_encode : encode .handleTransition = ⟨8, 6⟩ ∧ encode (.trMakeClose 7 5) = ⟨16, 0x175⟩ ∧
    encode (.trMakeOpen 8 0) = ⟨16, 0x080⟩ ∧ encode (.trBreakClose 15 7) = ⟨16, 0x1FF⟩ ∧
    encode (.trBreakOpen 0 3) = ⟨16, 0x00B⟩ ∧ encode (.msgNoteOn 1 36) = ⟨24, 0x91247F⟩ ∧
    encode (.msgNoteOff 0 96) = ⟨24, 0x806000⟩ := by decide

/-- The bytes of program P1's end state (section 3) read as its two messages. -/
theorem test_readMessages : readMessages [0x91, 0x24, 0x7F, 0x81, 0x24, 0x00] =
    .ok [.msgNoteOn 1 36, .msgNoteOff 1 36] := by decide

/-! ### One step of each operation -/

/-- 2.7: IDLE with tickReq 1 and 0. -/
theorem test_idleWait_starts : after (exec .idleWait (start false true 0)) (fun t => t.phase == .select) := by decide
theorem test_idleWait_stutters : after (exec .idleWait (start false false 0)) (fun t => t == start false false 0) := by
  decide

/-- 2.1: activeColumn 5, colDrive 0x10. -/
theorem test_selectColumn : after (exec .selectColumn { start false true 0 with activeColumn := 5, colDrive := 0x10 })
    (fun t => t.colDrive == 0x20 && t.addrCur == 0 && t.rowVec == 0 && t.phase == .setAddr) := by decide
/-- 2.1: activeColumn 7 wraps, colDrive stays 0x80. -/
theorem test_advanceColumn_wraps :
    after (exec .advanceColumn { start false true 0 with activeColumn := 7, colDrive := 0x80 })
      (fun t => t.activeColumn == 0 && t.colDrive == 0x80 && t.phase == .idle) := by decide

/-- 2.2: addrCur 0, muxAddr 7. -/
theorem test_setMuxAddr : after (exec .setMuxAddr (inTick .setAddr 0 7 0 0))
    (fun t => t.muxAddr == 0 && t.phase == .settle) := by decide
/-- R111: phase SETTLE, muxAddr 3. -/
theorem test_settleWait : after (exec .settleWait (inTick .settle 3 3 0 0)) (fun t => t == inTick .read 3 3 0 0) := by
  decide
/-- R112's example: muxAddr 3, sense 1010. -/
theorem test_readSense : after (exec .readSense (inTick .read 3 3 0 0))
    (fun t => t.rowVec == 0x00800080 && t.addrCur == 4 && t.phase == .setAddr) := by decide
/-- 2.2: the last address moves to DIFF, and a sense bit at 0 clears its row. -/
theorem test_readSense_last : after (exec .readSense (inTick .read 7 7 0xFFFFFFFF 0))
    (fun t => t.rowVec == 0xBFFFBFFF && t.addrCur == 8 && t.phase == .diff) := by decide

/-- W5: snap 0x0000F00F, rowVec 0x0001F00E. -/
theorem test_detectChanges : after (exec .detectChanges ((inTick .diff 8 7 0x0001F00E 0).setSnap 2 0x0000F00F))
    (fun t => t.changed == 0x00010001 && t.snapAt 2 == 0x0001F00E && t.snapAt 3 == 0 && t.phase == .handle) := by decide
/-- R121's example: changed 6, rowVec 4: row 1 opens first, nothing is sent. -/
theorem test_handleTransition : after (exec .handleTransition (handling .handle 0x00000004 0x00000006))
    (fun t => t.changed == 0x00000004 && t.tx == [] && t.phase == .handle) := by decide
/-- 2.3, 2.4: row 31 alone; the break row of a clamped key sets clampSeen. -/
theorem test_handleTransition_row31 :
    after (exec .handleTransition { handling .handle 0 0x80000000 with activeColumn := 7 })
      (fun t => t.changed == 0 && t.clampSeen && t.tx == []) := by decide

/-- 2.5: first press of key 0. -/
theorem test_trMakeClose : after (exec (.trMakeClose 0 0) State.reset)
    (fun t => t.onSent == 1 && t.offSent == 0 && t.tx == [0x91, 0x24, 0x7F] && !t.clampSeen) := by decide
/-- 2.5: key 61, the clamp; 2.4: the status and pitch bytes 91 60. -/
theorem test_trMakeClose_clamps : after (exec (.trMakeClose 7 5) State.reset)
    (fun t => t.onSentAt 61 && t.clampSeen && t.tx == [0x91, 0x60, 0x7F]) := by decide
/-- 2.5: normal release, flags (1, 0). -/
theorem test_trMakeOpen : after (exec (.trMakeOpen 0 0) (State.reset.setOnSent 0 true))
    (fun t => t.onSent == 1 && t.offSent == 1 && t.tx == [0x81, 0x24, 0x00]) := by decide
/-- 2.5: duplicate release suppressed, flags (1, 1). -/
theorem test_trMakeOpen_suppressed : after (exec (.trMakeOpen 0 0) ((State.reset.setOnSent 0 true).setOffSent 0 true))
    (fun t => t.tx == []) := by decide
/-- 2.5: rearm of key 0, flags (1, 1), key 1's flags kept. -/
theorem test_trBreakClose :
    after (exec (.trBreakClose 0 0) { State.reset with onSent := 0b11, offSent := 0b11 })
      (fun t => t.onSent == 0b10 && t.offSent == 0b10 && t.tx == []) := by decide
/-- 2.5: break release does nothing, flags (1, 0). -/
theorem test_trBreakOpen : after (exec (.trBreakOpen 0 0) (State.reset.setOnSent 0 true))
    (fun t => t == State.reset.setOnSent 0 true) := by decide

/-- 2.6: the highest pitch the block produces, and the corner of the domain. -/
theorem test_msgNoteOn : after (exec (.msgNoteOn 0 96) State.reset) (fun t => t.tx == [0x90, 0x60, 0x7F]) := by decide
theorem test_msgNoteOff : after (exec (.msgNoteOff 0 127) State.reset) (fun t => t.tx == [0x80, 0x7F, 0x00]) := by decide
/-- 2.6: `sendNote(2, 36, true)` is refused. -/
theorem test_msgNoteOn_refused :
    refusalOf (exec (.msgNoteOn 2 36) State.reset) = some (.outsideEncoderDomain 2 36) := by decide
theorem test_msgNoteOff_refused :
    refusalOf (exec (.msgNoteOff 0 128) State.reset) = some (.outsideEncoderDomain 0 128) := by decide

/-- 2.4: channel and pitch of the cells (row 22, column 2), (row 30, column 4) and (row 31, column 7). -/
theorem test_mapping : (keyOf 22 2, channelOf 90, pitchOf 90) = (90, 0, 62) ∧
    (keyOf 30 4, channelOf 124, pitchOf 124) = (124, 0, 96) ∧ (keyOf 31 7, rawPitch 127, pitchOf 127) = (127, 99, 96) := by
  decide
/-- 2.2: the eight words `0011 0000 …` and the words all `1111`. -/
theorem test_sampleColumn : sampleColumn (fun m => if m = 0 then 0b0011 else 0) 0 = 0x00000003 ∧
    sampleColumn (fun _ => 0b1111) 0 = 0xFFFFFFFF := by decide
/-- P3, tick 8: column 7 reads `1111` at address 7; two note-ons at the clamp, every flag rearmed. -/
theorem test_tick : after (tick (fun m => if m = 7 then 0b1111 else 0) { State.reset with activeColumn := 7 })
    (fun t => t.tx == [0x91, 0x60, 0x7F, 0x90, 0x60, 0x7F] && t.onSent == 0 && t.snapAt 7 == 0xC000C000 && t.clampSeen &&
      t.colDrive == 0x80 && t.activeColumn == 0) := by decide

/-! ### A word placed where the step finds it runs as the first operation after reset -/

theorem test_first_selectColumn : after (step (State.reset.withFetchWord 8 1))
    (fun t => t.phase == .setAddr && t.colDrive == 1 && t.steps == 1) := by decide
theorem test_first_trMakeClose : after (step (State.reset.withFetchWord 16 0x175))
    (fun t => t.tx == [0x91, 0x60, 0x7F] && t.phase == .idle && t.entry == none) := by decide
theorem test_first_msgNoteOff : after (step (State.reset.withFetchWord 24 0x800000))
    (fun t => t.tx == [0x80, 0x00, 0x00]) := by decide
theorem test_first_undecodable :
    refusalOf (step (State.reset.withFetchWord 24 0x92247F)) = some (.noSuchOperation ⟨24, 0x92247F⟩) := by decide
/-- R201: `rst` in the middle of a tick. -/
theorem test_rst : after (step { handling .handle 3 3 with inputs := [⟨true, true, 0⟩], tx := [0x91, 0x24, 0x7F] })
    (fun t => t == { State.reset with steps := 1 }) := by decide

/-! ### Witnesses: states and operands that meet the hypotheses of the statements -/

/-- A state of the block for each phase, at the ends of the address counter's range. -/
def blockStates : List State :=
  [start false true 0, start false false 0, { start false true 0 with phase := .select },
    inTick .setAddr 0 7 0 0, inTick .setAddr 7 6 0 0, inTick .settle 7 7 0 0, inTick .read 0 0 0 0, inTick .read 7 7 0 0,
    inTick .diff 8 7 0 0, handling .handle 3 3, handling .handle 0 0, handling .advance 3 0]

theorem test_witness_rst : (start true false 0).levels.rst = true ∧
    State.reset.activeColumn = State.reset.activeColumn := by decide

theorem test_witness_stepRuns : (start false true 0).entry = none ∧ (start false true 0).levels.rst = false ∧
    (start false true 0).current = .ok .idleWait := by decide

/-- PhaseTable, StepKeepsTheInvariant, SetMuxAddr: the invariant holds in a state of each phase. -/
theorem test_witness_invariant : ∀ s ∈ blockStates, s.Inv ∧ s.levels.rst = false := by decide

theorem test_witness_loop : State.reset.entry = none := by decide

theorem test_witness_idleWait : (start false true 0).entry = none ∧ (start false true 0).phase = .idle ∧
    (start false true 0).levels.tickReq = true ∧ (start false false 0).levels.tickReq = false := by decide
theorem test_witness_idleWait_notRemembered : (inTick .read 0 0 0 0).entry = none ∧
    (inTick .read 0 0 0 0).phase ≠ .idle ∧ (PortLevels.mk false true 5).rst = (PortLevels.mk false false 5).rst ∧
    (PortLevels.mk false true 5).sense = (PortLevels.mk false false 5).sense := by decide
theorem test_witness_idleWait_never : (start false false 0).phase = .idle ∧ (start false false 0).Undisturbed 1 ∧
    ∀ k < 1, ((start false false 0).levelsAt k).tickReq = false := by decide
theorem test_witness_sense : State.reset.entry = none ∧ State.reset.phase ≠ .read ∧
    (PortLevels.mk false true 5).rst = (PortLevels.mk false true 0).rst ∧
    (PortLevels.mk false true 5).tickReq = (PortLevels.mk false true 0).tickReq := by decide

/-- ElementsAreWrittenOnlyByTheirOperations: SETTLE_WAIT meets the premise of every clause. -/
theorem test_witness_written : (nextOf (exec .settleWait State.reset)).isSome = true ∧ Instr.settleWait ≠ .detectChanges ∧
    Instr.settleWait ≠ .handleTransition ∧ Instr.settleWait ≠ .advanceColumn ∧ Instr.settleWait ≠ .selectColumn ∧
    Instr.settleWait ≠ .setMuxAddr ∧ Instr.settleWait ≠ .readSense ∧
    (∀ p c, Instr.settleWait ≠ .trMakeClose p c ∧ Instr.settleWait ≠ .trMakeOpen p c ∧
      Instr.settleWait ≠ .trBreakClose p c ∧ Instr.settleWait ≠ .trBreakOpen p c) ∧
    ∀ c p, Instr.settleWait ≠ .msgNoteOn c p ∧ Instr.settleWait ≠ .msgNoteOff c p := by
  refine ⟨by decide, by decide, by decide, by decide, by decide, by decide, by decide, fun p c => ?_, fun c p => ?_⟩ <;>
    simp

/-- The encoding clauses of the phase operations: a state in each phase with nothing at the direct entry. -/
theorem test_witness_phases : ∀ p ∈ [Phase.idle, .select, .setAddr, .settle, .read, .diff, .handle, .advance],
    ({ State.reset with phase := p }).entry = none ∧ ({ State.reset with phase := p }).phase = p := by decide
theorem test_witness_select : State.reset.colDrive = onehot8 State.reset.activeColumn := by decide
theorem test_witness_advance : (handling .handle 0 0).Undisturbed 1 ∧
    after (step (handling .handle 0 0)) (fun t => t.phase == .advance) := by decide
theorem test_witness_read : 31 < 32 ∧ 31 % 16 / 2 ≠ (inTick .read 0 0 0 0).muxAddr.toNat := by decide
theorem test_witness_detect : (inTick .diff 8 7 0 0).rowVec = (inTick .diff 8 7 0 0).snapAt 2 ∧ (3 : Column) ≠ 2 := by
  decide
theorem test_witness_handle : (handling .handle 0 0).changed = 0#32 ∧ (handling .handle 0 0x80000000).changed ≠ 0#32 ∧
    (handling .handle 0 0x80000000).changed.getLsbD (31 : Row).toNat = true ∧
    ∀ q < (31 : Row).toNat, (handling .handle 0 0x80000000).changed.getLsbD q = false := by decide
/-- HANDLE with no changed row and with all 32. -/
theorem test_witness_handleSteps : (handling .handle 0 0).Undisturbed (popcount (0 : RowBits) + 1) ∧
    State.Undisturbed { handling .handle 0 0xFFFFFFFF with inputs := List.replicate 33 ⟨false, false, 0⟩ }
      (popcount (0xFFFFFFFF : RowBits) + 1) := by decide +kernel

theorem test_witness_channelPitch : 127 ≤ 127 ∧ 63 < 64 := by decide
theorem test_witness_unique : 124 ≤ 127 ∧ 124 % 64 ≤ 60 ∧ channelOf 124 = channelOf 124 ∧ pitchOf 124 = pitchOf 124 ∧
    60 ≤ 124 % 64 := by decide
theorem test_witness_make : (State.reset.setOnSent 127 true).onSentAt (8 * (15 : RowPair).toNat + (7 : Column).toNat) = true ∧
    State.reset.onSentAt (8 * (15 : RowPair).toNat + (7 : Column).toNat) = false := by decide
theorem test_witness_open : (State.reset.setOffSent 127 true).offSentAt (8 * (15 : RowPair).toNat + (7 : Column).toNat) = true ∧
    State.reset.offSentAt (8 * (15 : RowPair).toNat + (7 : Column).toNat) = false := by decide
/-- AtMostOneNoteOfEachKindBetweenRearms: key 0 bounces, its break opens, key 1 is rearmed in between. -/
theorem test_witness_atMostOne : ∀ x ∈ [((0 : Row), (0 : Column), true), (1, 1, true), (0, 0, false), (1, 0, false), (0, 0, true)],
    keyOf x.1 x.2.1 = 0 → contactOf x.1 = .brk → x.2.2 = false := by decide +kernel
theorem test_witness_others : (nextOf (handleTransition 31 7 true State.reset)).isSome = true ∧
    0 ≠ 8 * ((31 : Row).toNat / 2) + (7 : Column).toNat := by decide
theorem test_witness_bounce : State.reset.onSentAt (8 * (0 : RowPair).toNat + (0 : Column).toNat) = false ∧
    State.reset.offSentAt (8 * (0 : RowPair).toNat + (0 : Column).toNat) = false := by decide
/-- ClampSeenIsStickyAndExact: row 14 at column 7 is handled; and a phase that is not HANDLE. -/
theorem test_witness_clamp : State.Undisturbed { handling .handle 0x4000 0x4000 with activeColumn := 7 } 1 ∧
    after (step { handling .handle 0x4000 0x4000 with activeColumn := 7 }) (fun t => t.clampSeen) ∧
    (0x4000 : RowBits).getLsbD (14 : Row).toNat = true ∧ (∀ q < (14 : Row).toNat, (0x4000 : RowBits).getLsbD q = false) ∧
    (inTick .diff 8 7 0 0).Undisturbed 1 ∧ (inTick .diff 8 7 0 0).phase ≠ .handle := by decide
/-- FirstPressAfterResetIsObserved: the very first tick; the first tick of column 7; and the second of column 0, whose
first found the row open. -/
theorem test_witness_firstPress : (0 : Column).toNat = ([] : List (MuxAddr → Sense)).length % 8 ∧
    (7 : Column).toNat = (List.replicate 7 fun _ : MuxAddr => (15 : Sense)).length % 8 ∧
    (∀ j < 7, j % 8 ≠ (7 : Column).toNat) ∧
    (0 : Column).toNat = (List.replicate 8 fun _ : MuxAddr => (0 : Sense)).length % 8 ∧
    (sampleColumn (fun _ => 0) 0).getLsbD (31 : Row).toNat = false ∧
    (sampleColumn (fun _ => 0b1111) 0).getLsbD (31 : Row).toNat = true ∧
    contactOf 30 = .make ∧ (sampleColumn (fun _ => 0b1111) 0).getLsbD (30 : Row).toNat = true := by decide
/-- SameTickPressLeavesTheKeyRearmed: the first and the last row pair close together. -/
theorem test_witness_sameTick : ∀ p ∈ [(0 : RowPair), 15],
    State.reset.onSentAt (8 * p.toNat + State.reset.activeColumn.toNat) = false ∧
    ∀ b < 2, (State.reset.snapAt State.reset.activeColumn).getLsbD (2 * p.toNat + b) = false ∧
      (sampleColumn (fun _ => 0b1111) 0).getLsbD (2 * p.toNat + b) = true := by decide
/-- RearmThenPressSendsNoteOn: key 127's make opens, its break bounces, another key is pressed. -/
theorem test_witness_between : ∀ x ∈ [((30 : Row), (7 : Column), false), (31, 7, false), (31, 7, true), (30, 6, true)],
    keyOf x.1 x.2.1 = 8 * (15 : RowPair).toNat + (7 : Column).toNat → contactOf x.1 = .make → x.2.2 = false := by decide +kernel
theorem test_witness_domain : (1 : Byte).toNat ≤ 1 ∧ (127 : Byte).toNat ≤ 127 ∧ (2 : Byte).toNat > 1 ∧
    (128 : Byte).toNat > 127 := by decide
theorem test_witness_messages : (handling .handle 1 1).Undisturbed 1 ∧
    after (step (handling .handle 1 1)) (fun t => t.tx == [0x91, 0x26, 0x7F]) := by decide
theorem test_witness_appendOnly : (handling .handle 1 1).Undisturbed 0 ∧ (handling .handle 1 1).Undisturbed 1 ∧
    after (step (handling .handle 1 1)) (fun t => t.txPresentedSince (handling .handle 1 1) == [0x91, 0x26, 0x7F]) := by
  decide
theorem test_witness_agree : (Instr.msgNoteOn 1 127).wellFormed = true ∧
    decodeTableWord 24 0x91247F = some (.msgNoteOn 1 36) := by decide
theorem test_witness_masks : (0x1F7 : TransWord) &&& 0x108#9 = 0x100#9 ∧ (0x0F7 : TransWord) &&& 0x108#9 = 0x000#9 ∧
    (0x1FF : TransWord) &&& 0x108#9 = 0x108#9 ∧ (0x0FF : TransWord) &&& 0x108#9 = 0x008#9 := by decide
theorem test_witness_stream : ∀ m ∈ [((1 : Byte), (127 : Byte), true), (0, 0, false)],
    m.1.toNat ≤ 1 ∧ m.2.1.toNat ≤ 127 := by simp
theorem test_witness_txWhole : State.Inv { start false true 0 with tx := [0x91, 0x24, 0x7F, 0x80, 0x60, 0x00] } ∧
    3 * 1 < [(0x91 : Byte), 0x24, 0x7F, 0x80, 0x60, 0x00].length := by decide

/-- A tick from reset whose eight reads all draw `1111`: 32 changed rows. -/
def fullTick : State := { State.reset with inputs := List.replicate 61 ⟨false, true, 0b1111⟩ }

theorem test_witness_tick : fullTick.phase = .idle ∧ fullTick.levels.tickReq = true ∧
    fullTick.Undisturbed (29 + popcount (sampleColumn (fun m => (fullTick.levelsAt (4 + 3 * m.toNat)).sense) 0 ^^^
      fullTick.snapAt fullTick.activeColumn)) := by decide +kernel
theorem test_witness_unchanged : sampleColumn (fun _ => 0) 0 = State.reset.snapAt State.reset.activeColumn := by decide

end Sys2Proof.Tests
end

section
/-! SUPPORT. Runs with `rst` low, step by step, and what they do to `tx` (10_state.md R32; 44_midi_encoder.md R153). -/

namespace Sys2Proof.Machine

/-! ### Steps with `rst` low -/

/-- The port levels are a function of the schedule and the step counter alone. -/
theorem levelsAt_congr {s t : State} (hInputs : t.inputs = s.inputs) (hSteps : t.steps = s.steps) (k : Nat) :
    t.levelsAt k = s.levelsAt k := by
  simp only [State.levelsAt, hInputs, hSteps]

/-- The first step of an undisturbed run performs the phase's operation, and the rest of the run is undisturbed. -/
theorem step_of_undisturbed {n : Nat} {s : State} (h : s.Undisturbed (n + 1)) : ∃ t,
    exec s.phase.operation s = .next t ∧ step s = .next (t.elapse 1) ∧ (t.elapse 1).Undisturbed n := by
  obtain ⟨hEntry, hRst⟩ := h
  obtain ⟨t, hExec, hInputs, hSteps, -⟩ := exec_operation_next s.phase s
  have hLow : s.levels.rst = false := hRst 0 n.succ_pos
  refine ⟨t, hExec, ?_, rfl, fun k hk => ?_⟩
  · simp [step_of_entry_none s hEntry, hLow, hExec]
  · rw [levelsAt_elapse, levelsAt_congr hInputs hSteps]
    exact hRst (1 + k) (by omega)

/-! ### `tx` only grows -/

/-- Consuming a changed row appends at most its key's message (R44). -/
theorem tx_prefix_consumeRow (r : Row) (s : State) : s.tx <+: (consumeRow r s).tx := by
  obtain hSame | ⟨on, hMessage⟩ := transitionNext_tx (contactOf r) (s.rowVec.getLsbD r.toNat)
    (keyOf r s.activeColumn) { s with changed := setBit s.changed r.toNat false }
  · rw [consumeRow, hSame]
  · rw [consumeRow, hMessage]
    exact List.prefix_append _ _

/-- Of the phases' operations only HANDLE_TRANSITION touches `tx`, and it only appends (R32, R44). -/
theorem tx_prefix_exec_operation {p : Phase} {s t : State} (h : exec p.operation s = .next t) : s.tx <+: t.tx := by
  cases p
  case handle =>
    rw [Phase.operation, exec_handleTransition] at h
    injection h with h
    subst h
    split_ifs
    · exact List.prefix_rfl
    · exact tx_prefix_consumeRow _ _
  all_goals
    injection h with h
    subst h
    exact List.prefix_rfl

/-- An undisturbed run completes and keeps the bytes that are in `tx` (R32). -/
theorem runSteps_tx_prefix (n : Nat) (s : State) (h : s.Undisturbed n) :
    ∃ t, runSteps n s = .next t ∧ s.tx <+: t.tx := by
  induction n generalizing s with
  | zero => exact ⟨s, rfl, List.prefix_rfl⟩
  | succ n ih =>
    obtain ⟨u, hExec, hStep, hRest⟩ := step_of_undisturbed h
    obtain ⟨t, hRun, hGrows⟩ := ih (u.elapse 1) hRest
    refine ⟨t, ?_, (tx_prefix_exec_operation hExec).trans hGrows⟩
    rw [runSteps, hStep, andThen_next, hRun]

/-- Settles O42: by induction over the run its last `tx` extends its first, and the port presents the extension. -/
theorem txIsAppendOnly : Obligations.TxIsAppendOnly := by
  refine ⟨rfl, fun n s h => ?_⟩
  obtain ⟨t, hRun, bytes, hAppend⟩ := runSteps_tx_prefix n s h
  refine ⟨t, hRun, ?_⟩
  rw [txPresentedSince_of_append t s bytes hAppend.symm, hAppend]

end Sys2Proof.Machine
end

section
/-! SUPPORT. What one step with `rst` low appends to `tx`: whole messages only (20_memory.md R44). -/

namespace Sys2Proof.Machine

/-- The block has 128 keys: 16 row pairs by 8 columns (R130). -/
theorem keyOf_le_127 (r : Row) (c : Column) : keyOf r c ≤ 127 := by
  have hRow := r.isLt
  have hColumn := c.isLt
  simp only [keyOf]
  omega

/-- Consuming a changed row appends nothing, or the message of that row's key (R44). -/
theorem consumeRow_tx (r : Row) (s : State) : (consumeRow r s).tx = s.tx ∨
    ∃ on, (consumeRow r s).tx = s.tx ++ keyMessage (keyOf r s.activeColumn) on :=
  transitionNext_tx _ _ _ _

/-- A phase's operation leaves `tx` as it is, or is HANDLE_TRANSITION and appends one key's message (R44). -/
theorem exec_operation_tx {p : Phase} {s t : State} (h : exec p.operation s = .next t) :
    t.tx = s.tx ∨ (p = .handle ∧ ∃ key on, key ≤ 127 ∧ t.tx = s.tx ++ keyMessage key on) := by
  cases p
  case handle =>
    rw [Phase.operation, exec_handleTransition] at h
    injection h with h
    subst h
    split_ifs
    · exact .inl rfl
    · obtain hSame | ⟨on, hMessage⟩ := consumeRow_tx (leastRow s.changed) s
      · exact .inl hSame
      · exact .inr ⟨rfl, _, on, keyOf_le_127 _ _, hMessage⟩
  all_goals
    injection h with h
    subst h
    exact .inl rfl

/-- Settles O41: the step is the phase's operation, and its own bookkeeping leaves `tx` alone. -/
theorem messagesAreAppendedWholeInOneStep : Obligations.MessagesAreAppendedWholeInOneStep := by
  intro s t hUndisturbed hStep
  obtain ⟨u, hExec, hNext, -⟩ := step_of_undisturbed hUndisturbed
  obtain rfl : u.elapse 1 = t := by
    rw [hNext] at hStep
    injection hStep
  rw [State.elapse_tx]
  exact exec_operation_tx hExec

end Sys2Proof.Machine
end

section
/-! SUPPORT. The transition descriptor as a number and as a bit string, and its fields (30_encoding.md R64). -/

namespace Sys2Proof

/-- The sum `closed*256 + row*8 + column` fits the 9 bits of a descriptor (R64). -/
theorem packTrans_toNat (r : Row) (c : Column) (closed : Bool) :
    (packTrans r c closed).toNat = closed.toNat * 256 + r.toNat * 8 + c.toNat := by
  have hRow := r.isLt
  have hColumn := c.isLt
  have hClosed := closed.toNat_lt
  rw [packTrans, BitVec.toNat_ofNat, Nat.mod_eq_of_lt (by omega)]

/-- The addends of R64 do not overlap: the descriptor is its three fields side by side, the new state uppermost. -/
theorem packTrans_eq_append (r : Row) (c : Column) (closed : Bool) :
    packTrans r c closed = BitVec.ofBool closed ++ r ++ c := by
  apply BitVec.eq_of_toNat_eq
  rw [packTrans_toNat, BitVec.toNat_append, BitVec.toNat_append, BitVec.toNat_ofBool,
    ← Nat.shiftLeft_add_eq_or_of_lt r.isLt, ← Nat.shiftLeft_add_eq_or_of_lt c.isLt, Nat.shiftLeft_eq, Nat.shiftLeft_eq]
  omega

/-- Which field each bit of a descriptor belongs to (R64). -/
theorem getLsbD_packTrans (r : Row) (c : Column) (closed : Bool) (i : Nat) : (packTrans r c closed).getLsbD i =
    if i < 3 then c.getLsbD i else if i - 3 < 5 then r.getLsbD (i - 3) else (BitVec.ofBool closed).getLsbD (i - 3 - 5) := by
  rw [← BitVec.getLsbD_append, ← BitVec.getLsbD_append]
  exact congrArg (BitVec.getLsbD · i) (packTrans_eq_append r c closed)

/-- Settles O45: row and column are read off bit by bit, and the two flags are single bits of the descriptor. -/
theorem descriptorPacksRowColumnClosed : Obligations.DescriptorPacksRowColumnClosed := by
  intro r c closed
  refine ⟨packTrans_toNat r c closed, ?row, ?column, ?newState, ?rowParity⟩
  case row =>
    apply BitVec.eq_of_getLsbD_eq
    intro i hi
    simp [getLsbD_packTrans, hi]
  case column =>
    apply BitVec.eq_of_getLsbD_eq
    intro i hi
    simp [getLsbD_packTrans, hi]
  case newState =>
    rw [getLsbD_packTrans]
    simp
  case rowParity =>
    rw [getLsbD_packTrans]
    simp

end Sys2Proof
end

section
/-! SUPPORT. The column driver's two operations, and the phase that follows each phase (40_column_driver.md R100,
R102; 45_scan_sequencer.md R160). -/

namespace Sys2Proof.Machine

/-! ### The two operations -/

theorem exec_selectColumn (s : State) : exec .selectColumn s = .next
    { s with colDrive := onehot8 s.activeColumn, addrCur := 0, rowVec := 0x00000000, phase := .setAddr } := rfl

theorem exec_advanceColumn (s : State) :
    exec .advanceColumn s = .next { s with activeColumn := s.activeColumn + 1, phase := .idle } := rfl

/-- With nothing at the direct entry, a state in phase `p` performs `p`'s operation (R71). -/
theorem current_of_phase {s : State} {p : Phase} (hEntry : s.entry = none) (hPhase : s.phase = p) :
    s.current = .ok p.operation := by
  rw [current_of_entry_none s hEntry, hPhase]

/-- Settles O9: the drive lines of SELECT_COLUMN are the one-hot word of the active column, read bit by bit. -/
theorem selectColumnAssertsOneLine : Obligations.SelectColumnAssertsOneLine := by
  refine ⟨rfl, fun s => current_of_phase, fun s => ⟨_, exec_selectColumn s, rfl, ?oneLine, ?idempotent⟩⟩
  case oneLine => exact onehot8_getLsbD s.activeColumn
  case idempotent => exact Eq.symm

/-! ### The phase after a step -/

/-- The phase after the operation of the present one, in any state: the table of R160 with READ's choice as R112
makes it. -/
def State.nextPhase (s : State) : Phase :=
  match s.phase with
  | .idle => if s.levels.tickReq then .select else .idle
  | .select => .setAddr
  | .setAddr => .settle
  | .settle => .read
  | .read => if s.addrCur + 1 = 8 then .diff else .setAddr
  | .diff => .handle
  | .handle => if s.changed = 0#32 then .advance else .handle
  | .advance => .idle

/-- Consuming a row keeps the phase (R121). -/
theorem consumeRow_phase (r : Row) (s : State) : (consumeRow r s).phase = s.phase := by
  rw [consumeRow_frame]

/-- The operation of a state's own phase moves it to the phase of the table. -/
theorem exec_operation_phase {s t : State} (h : exec s.phase.operation s = .next t) : t.phase = s.nextPhase := by
  cases hPhase : s.phase <;> rw [hPhase] at h <;> simp only [State.nextPhase, hPhase]
  case idle =>
    injection h with h
    subst h
    simp only [hPhase]
  case handle =>
    rw [Phase.operation, exec_handleTransition] at h
    injection h with h
    subst h
    split_ifs
    · rfl
    · rw [consumeRow_phase, hPhase]
  all_goals
    injection h with h
    subst h
    rfl

/-- One undisturbed step moves the block to the phase of the table (R160). -/
theorem step_phase {s t : State} (hUndisturbed : s.Undisturbed 1) (hStep : step s = .next t) :
    t.phase = s.nextPhase := by
  obtain ⟨u, hExec, hNext, -⟩ := step_of_undisturbed hUndisturbed
  obtain rfl : u.elapse 1 = t := by
    rw [hNext] at hStep
    injection hStep
  rw [State.elapse_phase, exec_operation_phase hExec]

/-- The table leads to ADVANCE from HANDLE alone, once every changed row is consumed (R102, R121). -/
theorem nextPhase_eq_advance_iff (s : State) : s.nextPhase = .advance ↔ s.phase = .handle ∧ s.changed = 0#32 := by
  cases hPhase : s.phase <;> simp only [State.nextPhase, hPhase]
  case idle => split_ifs <;> simp
  case read => split_ifs <;> simp
  all_goals simp

/-- Settles O10: the 3-bit sum is the sum mod 8, and the phase table leads to ADVANCE only from a finished HANDLE. -/
theorem advanceColumnIsRoundRobin : Obligations.AdvanceColumnIsRoundRobin := by
  refine ⟨rfl, fun s => current_of_phase, fun s => ⟨_, exec_advanceColumn s, rfl, ?roundRobin⟩, ?onlyFromHandle⟩
  case roundRobin => exact BitVec.toNat_add s.activeColumn 1
  case onlyFromHandle =>
    intro s t hUndisturbed hStep hAdvance
    rw [step_phase hUndisturbed hStep] at hAdvance
    exact (nextPhase_eq_advance_iff s).mp hAdvance

end Sys2Proof.Machine
end

section
/-! SUPPORT. The row sampler's wait and read, and where a read places its sense bits (41_row_sampler.md R111, R112). -/

namespace Sys2Proof.Machine

theorem exec_settleWait (s : State) : exec .settleWait s = .next { s with phase := .read } := rfl

theorem exec_readSense (s : State) : exec .readSense s = .next
    { s with rowVec := placeSense s.muxAddr s.levels.sense s.rowVec
             addrCur := s.addrCur + 1
             phase := if s.addrCur + 1 = 8 then .diff else .setAddr } := rfl

/-- Settles O13: in any state SETTLE_WAIT only hands on to READ. -/
theorem settleWaitChangesOnlyThePhase : Obligations.SettleWaitChangesOnlyThePhase :=
  ⟨rfl, fun _ => current_of_phase, exec_settleWait⟩

/-- Bit `k` of the word read at address `m` goes to row `2m + k % 2` of half `k / 2` of the row vector (R61, R112). -/
theorem getLsbD_placeSense_of_row {m : MuxAddr} {k r : Nat} (w : Sense) (v : RowBits) (hk : k < 4)
    (hRow : r = 16 * (k / 2) + 2 * m.toNat + k % 2) : (placeSense m w v).getLsbD r = w.getLsbD k := by
  have hAddr := m.isLt
  have hSameAddress : r % 16 / 2 = m.toNat := by omega
  have hSenseBit : 2 * (r / 16) + r % 2 = k := by omega
  rw [getLsbD_placeSense m w v r (by omega), if_pos hSameAddress, hSenseBit]

/-- A row of another address keeps its bit (R112). -/
theorem getLsbD_placeSense_of_ne {m : MuxAddr} {r : Nat} (w : Sense) (v : RowBits) (hr : r < 32)
    (hOther : r % 16 / 2 ≠ m.toNat) : (placeSense m w v).getLsbD r = v.getLsbD r := by
  rw [getLsbD_placeSense m w v r hr, if_neg hOther]

/-- Settles O14: each of the four rows at the multiplexer address takes its sense bit, and every other row is kept. -/
theorem readSensePlacesFourBits : Obligations.ReadSensePlacesFourBits := by
  refine ⟨rfl, fun _ => current_of_phase, fun s => ⟨_, exec_readSense s, rfl, rfl, ?bit0, ?bit1, ?bit2, ?bit3, ?others⟩⟩
  case others => exact fun r => getLsbD_placeSense_of_ne s.levels.sense s.rowVec
  all_goals exact getLsbD_placeSense_of_row s.levels.sense s.rowVec (by decide) (by omega)

end Sys2Proof.Machine
end

section
/-! SUPPORT. The change detector's two operations: the difference with the active column's snapshot, and the lowest
changed row handed to the mapper (42_change_detector.md R120, R121). -/

namespace Sys2Proof.Machine

/-! ### DETECT_CHANGES -/

theorem exec_detectChanges (s : State) : exec .detectChanges s = .next
    { s.setSnap s.activeColumn s.rowVec with
      changed := s.rowVec ^^^ s.snapAt s.activeColumn
      phase := .handle } := rfl

/-- After DETECT_CHANGES the active column's snapshot is the row vector, and the other columns' are the old ones. -/
theorem snapAt_of_exec_detectChanges {s t : State} (h : exec .detectChanges s = .next t) (c : Column) :
    t.snapAt c = if c = s.activeColumn then s.rowVec else s.snapAt c := by
  rw [exec_detectChanges] at h
  injection h with h
  subst h
  exact snapAt_setSnap s s.activeColumn c s.rowVec

/-- Settles O16: `changed` is a bitwise difference, which is 0 of equal vectors, and the snapshot write goes to the
active column alone. -/
theorem detectChangesDiffsAndReplaces : Obligations.DetectChangesDiffsAndReplaces := by
  refine ⟨rfl, fun _ => current_of_phase, fun s => ⟨_, exec_detectChanges s, rfl, ?diff, ?noChange, ?own, ?others⟩⟩
  case diff => exact fun r _ => BitVec.getLsbD_xor
  case noChange =>
    intro hSame
    show s.rowVec ^^^ s.snapAt s.activeColumn = 0#32
    rw [hSame, BitVec.xor_self]
  case own => rw [snapAt_of_exec_detectChanges (exec_detectChanges s), if_pos rfl]
  case others =>
    intro c hOther
    rw [snapAt_of_exec_detectChanges (exec_detectChanges s), if_neg hOther]

/-! ### HANDLE_TRANSITION -/

/-- Clearing bit `i` clears that bit alone. -/
theorem getLsbD_setBit_false {n : Nat} (v : BitVec n) (i j : Nat) :
    (setBit v i false).getLsbD j = (v.getLsbD j && j != i) := by
  rw [getLsbD_setBit]
  obtain rfl | hOther := eq_or_ne j i
  · by_cases hWidth : j < n
    · simp [hWidth]
    · simp [hWidth, BitVec.getLsbD_of_ge v j (by omega)]
  · simp [hOther]

theorem exec_handleTransition_of_unchanged {s : State} (h : s.changed = 0#32) :
    exec .handleTransition s = .next { s with phase := .advance } := by
  rw [exec_handleTransition, if_pos h]

/-- The row consumed is the least changed one, whichever way that row was found (R121). -/
theorem exec_handleTransition_of_least {s : State} {r : Row} (hSet : s.changed.getLsbD r.toNat = true)
    (hLeast : ∀ q < r.toNat, s.changed.getLsbD q = false) :
    exec .handleTransition s = .next (consumeRow r s) := by
  obtain ⟨hChanged, hRow⟩ := leastRow_unique s.changed r hSet hLeast
  rw [exec_handleTransition, if_neg hChanged, hRow]

/-- Consuming a row is the mapper's answer for it, with the row's bit already cleared. -/
theorem handleTransition_eq_consumeRow (r : Row) (s : State) :
    handleTransition r s.activeColumn (s.rowVec.getLsbD r.toNat)
      { s with changed := setBit s.changed r.toNat false } = .next (consumeRow r s) :=
  handleTransition_next _ _ _ _

theorem consumeRow_changed (r : Row) (s : State) : (consumeRow r s).changed = setBit s.changed r.toNat false := by
  rw [consumeRow_frame]

/-- Settles O18: with nothing left the phase moves on; otherwise a least changed row exists, and the step consumes
exactly it. -/
theorem handleTransitionTakesTheLowestRow : Obligations.HandleTransitionTakesTheLowestRow := by
  refine ⟨rfl, fun _ => current_of_phase, fun _ => exec_handleTransition_of_unchanged, ?leastExists, ?consumesIt⟩
  case leastExists => exact fun s hChanged => ⟨leastRow s.changed, leastRow_spec s.changed hChanged⟩
  case consumesIt =>
    intro s r hSet hLeast
    exact ⟨setBit s.changed r.toNat false, consumeRow r s, getLsbD_setBit_false s.changed r.toNat,
      exec_handleTransition_of_least hSet hLeast, handleTransition_eq_consumeRow r s, consumeRow_phase r s,
      consumeRow_changed r s⟩

end Sys2Proof.Machine
end

section
/-! SUPPORT. The encoder's `sendNote` by its declared domain, and a message's word under the mask of its format
(44_midi_encoder.md R150 to R152). -/

namespace Sys2Proof

/-! ### The declared domain -/

theorem inEncoderDomain_iff (channel pitch : Byte) :
    inEncoderDomain channel pitch = true ↔ channel.toNat ≤ 1 ∧ pitch.toNat ≤ 127 := by
  simp only [inEncoderDomain, Bool.and_eq_true, decide_eq_true_eq]

/-- The two channels of the encoder (R150). -/
theorem channel_eq_zero_or_one {channel : Byte} (hChannel : channel.toNat ≤ 1) : channel = 0 ∨ channel = 1 := by
  obtain hZero | hOne := Nat.le_one_iff_eq_zero_or_eq_one.mp hChannel
  · exact .inl (BitVec.eq_of_toNat_eq hZero)
  · exact .inr (BitVec.eq_of_toNat_eq hOne)

/-! ### A message's word under a mask -/

/-- `AND` of two numbers with a last byte acts on the last bytes and on the rest apart. -/
theorem mul_256_add_and (m n : Nat) (a b : Byte) :
    (m * 256 + a.toNat) &&& (n * 256 + b.toNat) = (m &&& n) * 256 + (a &&& b).toNat := by
  have hRest (k : Nat) (x : Byte) : (k * 256 + x.toNat) / 2 ^ 8 = k := by have := x.isLt; omega
  have hLast (k : Nat) (x : Byte) : (k * 256 + x.toNat) % 2 ^ 8 = x.toNat := by have := x.isLt; omega
  rw [← Nat.div_add_mod' ((m * 256 + a.toNat) &&& (n * 256 + b.toNat)) (2 ^ 8), Nat.and_div_two_pow,
    Nat.and_mod_two_pow, hRest, hRest, hLast, hLast, BitVec.toNat_and]
  rfl

/-- A 24-bit mask acts on each of a message's three bytes apart (D31). -/
theorem encodeMessage_and (status pitch velocity status' pitch' velocity' : Byte) :
    (encodeMessage [status, pitch, velocity]).bits &&& (encodeMessage [status', pitch', velocity']).bits =
      (encodeMessage [status &&& status', pitch &&& pitch', velocity &&& velocity']).bits := by
  simp only [encodeMessage, List.foldl, mul_256_add_and, Nat.zero_and]

/-- The status mask 0xFE leaves out the channel bit. -/
theorem status_and_mask {channel : Byte} (status : Byte) (hChannel : channel.toNat ≤ 1) :
    (status ||| channel) &&& 0xFE = status &&& 0xFE := by
  have hMasked : channel &&& 0xFE = 0 := by
    obtain rfl | rfl := channel_eq_zero_or_one hChannel <;> rfl
  rw [BitVec.and_comm, BitVec.and_or_distrib_left, BitVec.and_comm _ channel, hMasked, BitVec.and_comm]
  exact BitVec.or_zero

/-- The pitch mask 0x80 looks at the bit that every pitch of the domain has clear. -/
theorem pitch_and_mask {pitch : Byte} (hPitch : pitch.toNat ≤ 127) : pitch &&& 0x80 = 0 := by
  apply BitVec.eq_of_toNat_eq
  have hBit : pitch.toNat.testBit 7 = false := Nat.testBit_lt_two_pow (by omega)
  calc (pitch &&& 0x80).toNat = pitch.toNat &&& 2 ^ 7 := BitVec.toNat_and _ _
    _ = 0 := by rw [Nat.and_two_pow, hBit]; rfl

/-- Under the mask 0xFE80FF a message of the domain keeps its status without the channel, and its velocity (R66, R67). -/
theorem encodeMessage_and_mask {channel pitch : Byte} (status velocity : Byte) (hChannel : channel.toNat ≤ 1)
    (hPitch : pitch.toNat ≤ 127) : (encodeMessage [status ||| channel, pitch, velocity]).bits &&& 0xFE80FF =
      (encodeMessage [status &&& 0xFE, 0, velocity]).bits := by
  have hMask : 0xFE80FF = (encodeMessage [0xFE, 0x80, 0xFF]).bits := rfl
  have hVelocity : velocity &&& 0xFF = velocity := BitVec.and_allOnes
  rw [hMask, encodeMessage_and, status_and_mask status hChannel, pitch_and_mask hPitch, hVelocity]

end Sys2Proof

namespace Sys2Proof.Machine

/-! ### `sendNote` and the two messages -/

/-- The two MIDI operations are `sendNote` with its third argument fixed (R150). -/
theorem exec_message (channel pitch : Byte) (on : Bool) (s : State) :
    exec (if on then .msgNoteOn channel pitch else .msgNoteOff channel pitch) s = sendNote channel pitch on s := by
  cases on <;> rfl

theorem sendNote_of_inEncoderDomain {channel pitch : Byte} (on : Bool) (s : State) (hChannel : channel.toNat ≤ 1)
    (hPitch : pitch.toNat ≤ 127) : sendNote channel pitch on s =
      .next (s.emit (if on then noteOnBytes channel pitch else noteOffBytes channel pitch)) := by
  obtain ⟨-, hSend⟩ | ⟨hOutside, -⟩ := sendNote_cases channel pitch on s
  · exact hSend
  · rw [(inEncoderDomain_iff channel pitch).mpr ⟨hChannel, hPitch⟩] at hOutside
    contradiction

theorem sendNote_of_outside {channel pitch : Byte} (on : Bool) (s : State)
    (hOutside : channel.toNat > 1 ∨ pitch.toNat > 127) :
    sendNote channel pitch on s = .refused (.outsideEncoderDomain channel pitch) := by
  obtain ⟨hInside, -⟩ | ⟨-, hRefused⟩ := sendNote_cases channel pitch on s
  · obtain ⟨hChannel, hPitch⟩ := (inEncoderDomain_iff channel pitch).mp hInside
    omega
  · exact hRefused

/-- A message is three bytes, whichever of the two it is (R150). -/
theorem messageBytes_length (channel pitch : Byte) (on : Bool) :
    (if on then noteOnBytes channel pitch else noteOffBytes channel pitch).length = 3 := by
  cases on <;> rfl

/-- Settles O38: inside the domain `sendNote` emits the note-on bytes, and the mask clears channel and pitch. -/
theorem noteOnAppendsItsBytes : Obligations.NoteOnAppendsItsBytes := by
  intro channel pitch s hChannel hPitch
  exact ⟨sendNote_of_inEncoderDomain true s hChannel hPitch, encodeMessage_and_mask 0x90 0x7F hChannel hPitch⟩

/-- Settles O39: inside the domain `sendNote` emits the note-off bytes, and the mask clears channel and pitch. -/
theorem noteOffAppendsItsBytes : Obligations.NoteOffAppendsItsBytes := by
  intro channel pitch s hChannel hPitch
  exact ⟨sendNote_of_inEncoderDomain false s hChannel hPitch, encodeMessage_and_mask 0x80 0x00 hChannel hPitch⟩

/-- Settles O40: the domain decides between three bytes and the refusal, and the key mapping stays inside it. -/
theorem sendNoteDispatchesAndRefuses : Obligations.SendNoteDispatchesAndRefuses := by
  refine ⟨?inside, ?outside, ?ofTheBlock⟩
  case inside =>
    intro channel pitch on s hChannel hPitch
    exact ⟨(exec_message channel pitch on s).symm, _, _, sendNote_of_inEncoderDomain on s hChannel hPitch, rfl,
      messageBytes_length channel pitch on⟩
  case outside =>
    intro channel pitch s hOutside
    exact ⟨sendNote_of_outside true s hOutside, sendNote_of_outside false s hOutside⟩
  case ofTheBlock =>
    intro r c
    obtain ⟨hChannel, -⟩ := (inEncoderDomain_iff _ _).mp (mapped_inEncoderDomain (keyOf r c))
    have hPitch := pitchOf_toNat (keyOf r c)
    omega

end Sys2Proof.Machine
end

section
/-! SUPPORT. The sequencer's poll of `tickReq`, and which port levels a step of each phase looks at (10_state.md R36;
45_scan_sequencer.md R160, R161). -/

namespace Sys2Proof.Machine

/-! ### The port levels at this step -/

@[simp] theorem State.withLevels_phase (s : State) (l : PortLevels) : (s.withLevels l).phase = s.phase := rfl
@[simp] theorem State.withLevels_changed (s : State) (l : PortLevels) : (s.withLevels l).changed = s.changed := rfl
@[simp] theorem State.withLevels_entry (s : State) (l : PortLevels) : (s.withLevels l).entry = s.entry := rfl
@[simp] theorem State.withLevels_levels (s : State) (l : PortLevels) : (s.withLevels l).levels = l := rfl

theorem withLevels_withLevels (s : State) (l l' : PortLevels) : (s.withLevels l').withLevels l = s.withLevels l := rfl

/-- The levels of a step are past when it ends (R36). -/
theorem elapse_withLevels (s : State) (l : PortLevels) : (s.withLevels l).elapse 1 = s.elapse 1 := by
  simp only [State.elapse, State.withLevels, List.drop_one, List.tail_cons]

/-- Nor does a reset keep anything of the levels of its step (R201). -/
theorem applyRst_elapse_withLevels (s : State) (l : PortLevels) :
    (s.withLevels l).applyRst.elapse 1 = s.applyRst.elapse 1 :=
  elapse_withLevels s.applyRst l

/-! ### What a step looks at -/

/-- The debounce FSM looks at no port (R36, R135). -/
theorem transitionNext_withLevels (contact : Contact) (closed : Bool) (key : Nat) (s : State) (l : PortLevels) :
    transitionNext contact closed key (s.withLevels l) = (transitionNext contact closed key s).withLevels l := by
  have hOn : (s.withLevels l).onSentAt key = s.onSentAt key := rfl
  have hOff : (s.withLevels l).offSentAt key = s.offSentAt key := rfl
  cases contact <;> cases closed <;> simp only [transitionNext, hOn, hOff]
  case make.false => split_ifs <;> rfl
  case make.true => split_ifs <;> rfl
  all_goals rfl

theorem consumeRow_withLevels (r : Row) (s : State) (l : PortLevels) :
    consumeRow r (s.withLevels l) = (consumeRow r s).withLevels l :=
  transitionNext_withLevels _ _ _ { s with changed := setBit s.changed r.toNat false } l

theorem exec_idleWait (s : State) :
    exec .idleWait s = .next { s with phase := if s.levels.tickReq then .select else s.phase } := rfl

/-- A phase's operation looks at `tickReq` in IDLE and at the sense lines in READ, and at no other level (R36). -/
theorem exec_operation_withLevels {p : Phase} {s t : State} {l : PortLevels} (h : exec p.operation s = .next t)
    (hTickReq : p = .idle → l.tickReq = s.levels.tickReq) (hSense : p = .read → l.sense = s.levels.sense) :
    exec p.operation (s.withLevels l) = .next (t.withLevels l) := by
  cases p
  case idle =>
    injection h with h
    subst h
    rw [Phase.operation, exec_idleWait, State.withLevels_levels, hTickReq rfl]
    rfl
  case read =>
    injection h with h
    subst h
    rw [Phase.operation, exec_readSense, State.withLevels_levels, hSense rfl]
    rfl
  case handle =>
    rw [Phase.operation, exec_handleTransition] at h ⊢
    injection h with h
    subst h
    rw [State.withLevels_changed, consumeRow_withLevels]
    split_ifs <;> rfl
  all_goals
    injection h with h
    subst h
    rfl

/-- Two levels a phase does not tell apart give the same step: only `rst` matters in every phase (R36, R160). -/
theorem step_withLevels_congr {s : State} {l l' : PortLevels} (hEntry : s.entry = none) (hRst : l.rst = l'.rst)
    (hTickReq : s.phase = .idle → l.tickReq = l'.tickReq) (hSense : s.phase = .read → l.sense = l'.sense) :
    step (s.withLevels l) = step (s.withLevels l') := by
  obtain ⟨t, hExec', -⟩ := exec_operation_next s.phase (s.withLevels l')
  have hExec : exec s.phase.operation (s.withLevels l) = .next (t.withLevels l) := by
    rw [← withLevels_withLevels s l l']
    exact exec_operation_withLevels hExec' hTickReq hSense
  rw [step_of_entry_none (s.withLevels l) hEntry, step_of_entry_none (s.withLevels l') hEntry]
  simp only [State.withLevels_levels, State.withLevels_phase, hRst, hExec, hExec', andThen_next, elapse_withLevels,
    applyRst_elapse_withLevels]

/-! ### Waiting in IDLE -/

theorem exec_idleWait_of_tickReq {s : State} (h : s.levels.tickReq = true) :
    exec .idleWait s = .next { s with phase := .select } := by
  rw [exec_idleWait, if_pos h]

theorem exec_idleWait_of_no_tickReq {s : State} (h : s.levels.tickReq = false) : exec .idleWait s = .next s := by
  rw [exec_idleWait, h]
  rfl

theorem elapse_zero {s : State} (hEntry : s.entry = none) : s.elapse 0 = s := by
  rw [State.elapse, List.drop_zero, Nat.add_zero, ← hEntry]

/-- As long as no tick is requested the block waits in IDLE and only the environment's levels pass (R161). -/
theorem runSteps_idle (n : Nat) (s : State) (hPhase : s.phase = .idle) (hUndisturbed : s.Undisturbed n)
    (hTickReq : ∀ k < n, (s.levelsAt k).tickReq = false) : runSteps n s = .next (s.elapse n) := by
  induction n generalizing s with
  | zero => rw [runSteps, elapse_zero hUndisturbed.left]
  | succ n ih =>
    obtain ⟨t, hExec, hStep, hRest⟩ := step_of_undisturbed hUndisturbed
    obtain rfl : s = t := by
      rw [hPhase, Phase.operation, exec_idleWait_of_no_tickReq (hTickReq 0 n.succ_pos)] at hExec
      injection hExec
    have hTickReqRest : ∀ k < n, ((s.elapse 1).levelsAt k).tickReq = false := by
      intro k hk
      rw [levelsAt_elapse]
      exact hTickReq (1 + k) (by omega)
    rw [runSteps, hStep, andThen_next, ih (s.elapse 1) hPhase hRest hTickReqRest, elapse_elapse, Nat.add_comm]

/-- Settles O6: IDLE_WAIT by the level of `tickReq`, no other phase's operation looks at it, and the wait by induction
over its steps. -/
theorem idleWaitPollsTickReq : Obligations.IdleWaitPollsTickReq := by
  refine ⟨rfl, fun _ => current_of_phase, fun _ => ⟨exec_idleWait_of_tickReq, exec_idleWait_of_no_tickReq⟩,
    ?onlyInIdle, runSteps_idle⟩
  case onlyInIdle =>
    intro s l l' hEntry hPhase hRst hSense
    exact step_withLevels_congr hEntry hRst (fun hIdle => absurd hIdle hPhase) (fun _ => hSense)

end Sys2Proof.Machine
end

section
/-! SUPPORT. The snapshots and the sent-flags of the reset state (70_reset_and_hazards.md R200). -/

namespace Sys2Proof.Machine

@[simp] theorem snapAt_reset (c : Column) : State.reset.snapAt c = 0x00000000 := by
  rw [State.snapAt, Vector.get_eq_getElem]
  exact Vector.getElem_replicate c.isLt

@[simp] theorem onSentAt_reset (k : Nat) : State.reset.onSentAt k = false := BitVec.getLsbD_zero

@[simp] theorem offSentAt_reset (k : Nat) : State.reset.offSentAt k = false := BitVec.getLsbD_zero

/-- Settles O1: every entry of the replicated snapshot vector is zero, and so is every bit of the two zero bitmaps. -/
theorem resetClearsSnapshotsAndBitmaps : Obligations.ResetClearsSnapshotsAndBitmaps :=
  ⟨snapAt_reset, fun k _ => ⟨onSentAt_reset k, offSentAt_reset k⟩⟩

end Sys2Proof.Machine
end

section
/-! SUPPORT. The fields of a row index and of a key number, and the keyboard, channel and pitch of a key (30_encoding.md
R62, R63; 43_debounce_fsm.md R130 to R134, R143). -/

namespace Sys2Proof.Machine

/-! ### Row and key -/

theorem pairOf_toNat (r : Row) : (pairOf r).toNat = r.toNat / 2 := by
  have hRow := r.isLt
  rw [pairOf, BitVec.extractLsb'_toNat, Nat.shiftRight_eq_div_pow]
  omega

/-- Bit 0 of a row is its parity (R62). -/
theorem row_getLsbD_zero (r : Row) : r.getLsbD 0 = decide (r.toNat % 2 = 1) := Nat.testBit_zero r.toNat

theorem contactOf_eq_brk_iff (r : Row) : contactOf r = .brk ↔ r.toNat % 2 = 1 := by
  rw [contactOf, row_getLsbD_zero]
  split_ifs with hOdd <;> simpa using hOdd

theorem contactOf_eq_make_iff (r : Row) : contactOf r = .make ↔ r.toNat % 2 = 0 := by
  rw [contactOf, row_getLsbD_zero]
  split_ifs with hOdd <;> simpa using hOdd

theorem keyOfPair_pairOf (r : Row) (c : Column) : keyOfPair (pairOf r) c = keyOf r c := by
  rw [keyOf, keyOfPair, pairOf_toNat]

theorem keyOf_le_63_iff (r : Row) (c : Column) : keyOf r c ≤ 63 ↔ r.toNat ≤ 15 := by
  have hColumn := c.isLt
  rw [keyOf]
  omega

/-- The column is the key mod 8, so a key determines its row pair and its column (R130). -/
theorem keyOf_eq_iff (r r' : Row) (c c' : Column) :
    keyOf r c = keyOf r' c' ↔ r.toNat / 2 = r'.toNat / 2 ∧ c = c' := by
  have hColumn := c.isLt
  have hColumn' := c'.isLt
  rw [keyOf, keyOf, ← BitVec.toNat_inj]
  omega

/-- Settles O20: the column is below 8, so the formula is a two-digit number in base 8. -/
theorem keyNumberOfACell : Obligations.KeyNumberOfACell := fun r c =>
  ⟨rfl, keyOf_le_127 r c, (keyOf_le_63_iff r c).symm, fun r' c' => keyOf_eq_iff r r' c c'⟩

theorem keyboardOf_eq_upper_iff (key : Nat) : keyboardOf key = .upper ↔ 64 ≤ key := by
  rw [keyboardOf]
  split_ifs with hUpper <;> simpa using hUpper

theorem keyboardOf_eq_lower_iff (key : Nat) : keyboardOf key = .lower ↔ key ≤ 63 := by
  rw [← Nat.lt_succ_iff, ← Nat.not_le, ← keyboardOf_eq_upper_iff]
  cases keyboardOf key <;> simp

/-- Bit 4 of a row tells the two halves of the matrix apart (R62). -/
theorem row_getLsbD_four (r : Row) : r.getLsbD 4 = decide (16 ≤ r.toNat) := by
  have hRow := r.isLt
  rw [BitVec.getLsbD, Nat.testBit_eq_decide_div_mod_eq, decide_eq_decide]
  omega

/-- The key's 7 bits are the row pair's four above the column's three (R63). -/
theorem ofNat_keyOf (r : Row) (c : Column) : BitVec.ofNat 7 (keyOf r c) = pairOf r ++ c := by
  have hKey := keyOf_le_127 r c
  apply BitVec.eq_of_toNat_eq
  rw [BitVec.toNat_ofNat, BitVec.toNat_append, ← Nat.shiftLeft_add_eq_or_of_lt c.isLt, Nat.shiftLeft_eq, pairOf_toNat,
    Nat.mod_eq_of_lt (by omega), keyOf, Nat.mul_comm]

/-- Settles O21: each field is a quotient or a remainder of the row by a power of two. -/
theorem keyBitsArePairAndColumn : Obligations.KeyBitsArePairAndColumn := by
  intro r c
  refine ⟨ofNat_keyOf r c, keyOfPair_pairOf r c, ?upper, contactOf_eq_brk_iff r⟩
  case upper =>
    have hLower := keyOf_le_63_iff r c
    rw [keyboardOf_eq_upper_iff, row_getLsbD_four, decide_eq_true_eq]
    omega

/-! ### Channel and pitch -/

theorem channelOf_toNat {key : Nat} (hKey : key ≤ 127) : (channelOf key).toNat = 1 - key / 64 := by
  rw [channelOf_eq]
  split_ifs with hUpper
  · exact (by omega : 0 = 1 - key / 64)
  · exact (by omega : 1 = 1 - key / 64)

/-- The same key of the other keyboard has the other channel (R131). -/
theorem channelOf_add_64_ne {key : Nat} (hLower : key < 64) : channelOf (key + 64) ≠ channelOf key := by
  intro hSame
  have hChannel := congrArg BitVec.toNat hSame
  rw [channelOf_toNat (by omega), channelOf_toNat (by omega)] at hChannel
  omega

/-- The pitch depends on the folded index alone (R132, R133). -/
theorem pitchOf_congr {key key' : Nat} (hFold : key % 64 = key' % 64) : pitchOf key = pitchOf key' := by
  apply BitVec.eq_of_toNat_eq
  rw [pitchOf_toNat, pitchOf_toNat, hFold]

/-- Settles O22: keyboard and channel by comparison with 64, the pitch from the clamp of `36 + key mod 64`. -/
theorem channelAndPitchOfAKey : Obligations.ChannelAndPitchOfAKey := by
  refine ⟨fun r c => ?lowerRows, fun key hKey => ?ofKey⟩
  case lowerRows => rw [keyboardOf_eq_lower_iff, keyOf_le_63_iff]
  case ofKey =>
    have hPitch := pitchOf_toNat key
    refine ⟨rfl, channelOf_eq key, channelOf_toNat hKey, rfl, by omega, by omega, by omega, by omega, fun hLower => ?_⟩
    have hFold : (key + 64) % 64 = key % 64 := Nat.add_mod_right key 64
    exact ⟨hFold, pitchOf_congr hFold, channelOf_add_64_ne hLower⟩

/-- Settles O23: the channel gives the keyboard, and below the clamp the pitch gives the folded index. -/
theorem channelAndPitchAreUniqueOverWiredKeys : Obligations.ChannelAndPitchAreUniqueOverWiredKeys := by
  refine ⟨?unique, ?shared⟩
  case unique =>
    intro key hKey key' hKey' hWired hWired' hChannel hPitch
    have hSameHalf := congrArg BitVec.toNat hChannel
    have hSameFold := congrArg BitVec.toNat hPitch
    rw [channelOf_toNat hKey, channelOf_toNat hKey'] at hSameHalf
    rw [pitchOf_toNat, pitchOf_toNat] at hSameFold
    omega
  case shared =>
    intro key _ hFold
    apply BitVec.eq_of_toNat_eq
    rw [pitchOf_toNat]
    exact Nat.min_eq_right (by omega)

end Sys2Proof.Machine
end

section
/-! SUPPORT. The descriptor of a transition and the operation it selects (30_encoding.md R64, R65). -/

namespace Sys2Proof.Machine

/-- The transition operation of a contact type and a new state, on the key of a row pair and a column (R65). -/
def transitionInstr (contact : Contact) (closed : Bool) (pair : RowPair) (col : Column) : Instr :=
  match contact, closed with
  | .brk, true => .trBreakClose pair col
  | .brk, false => .trBreakOpen pair col
  | .make, true => .trMakeClose pair col
  | .make, false => .trMakeOpen pair col

/-- The transition operations perform the transition of their contact and new state on their key (R135). -/
theorem exec_transitionInstr (contact : Contact) (closed : Bool) (pair : RowPair) (col : Column) (s : State) :
    exec (transitionInstr contact closed pair col) s =
      .next (transitionNext contact closed (keyOfPair pair col) s) := by
  cases contact <;> cases closed
  case make.false => exact exec_trMakeOpen pair col s
  case make.true => exact exec_trMakeClose pair col s
  case brk.false => exact exec_trBreakOpen pair col s
  case brk.true => exact exec_trBreakClose pair col s

/-- The contact type a descriptor names in its bit 3, the row's parity (R64, R134). -/
def contactOfWord (t : TransWord) : Contact := if t.getLsbD 3 then .brk else .make

/-- A descriptor selects by its bits 3 and 8 (R65). -/
theorem decodeTrans_eq (t : TransWord) :
    decodeTrans t = transitionInstr (contactOfWord t) (t.getLsbD 8) (t.extractLsb' 4 4) (t.extractLsb' 0 3) := by
  simp only [decodeTrans, contactOfWord]
  cases t.getLsbD 3 <;> cases t.getLsbD 8 <;> rfl

/-- A packed transition selects the operation of its own row, column and new state (R64, R65). -/
theorem decodeTrans_packTrans (r : Row) (c : Column) (closed : Bool) :
    decodeTrans (packTrans r c closed) = transitionInstr (contactOf r) closed (pairOf r) c := by
  obtain ⟨-, hRow, hColumn, hClosed, hParity⟩ := descriptorPacksRowColumnClosed r c closed
  have hPair : (packTrans r c closed).extractLsb' 4 4 = pairOf r := by
    refine Eq.trans ?_ (congrArg pairOf hRow)
    apply BitVec.eq_of_getLsbD_eq
    intro i hi
    simp only [pairOf, BitVec.getLsbD_extractLsb', hi, decide_true, Bool.true_and, (by omega : 1 + i < 5),
      ← Nat.add_assoc]
  rw [decodeTrans_eq, contactOfWord, hClosed, hParity, hPair, hColumn, contactOf]

/-! ### The rows of the match and mask table -/

/-- The match value of a transition operation under the mask 0x108 (R65). -/
def transitionMatch (contact : Contact) (closed : Bool) : TransWord :=
  match contact, closed with
  | .brk, true => 0x108#9
  | .brk, false => 0x008#9
  | .make, true => 0x100#9
  | .make, false => 0x000#9

/-- The mask 0x108 keeps exactly the two selecting bits. -/
theorem and_transition_mask (t : TransWord) : t &&& 0x108#9 = transitionMatch (contactOfWord t) (t.getLsbD 8) := by
  have hMask : 0x108#9 = BitVec.twoPow 9 8 ||| BitVec.twoPow 9 3 := rfl
  rw [hMask, BitVec.and_or_distrib_left, BitVec.and_twoPow, BitVec.and_twoPow, contactOfWord]
  cases t.getLsbD 3 <;> cases t.getLsbD 8 <;> rfl

/-- The four match values differ. -/
theorem transitionMatch_inj {contact contact' : Contact} {closed closed' : Bool}
    (h : transitionMatch contact closed = transitionMatch contact' closed') :
    contact = contact' ∧ closed = closed' := by
  revert h
  cases contact <;> cases closed <;> cases contact' <;> cases closed' <;> decide

theorem transitionInstr_inj {contact contact' : Contact} {closed closed' : Bool} {pair pair' : RowPair}
    {col col' : Column} (h : transitionInstr contact closed pair col = transitionInstr contact' closed' pair' col') :
    contact = contact' ∧ closed = closed' := by
  revert h
  cases contact <;> cases closed <;> cases contact' <;> cases closed' <;> simp [transitionInstr]

/-- A descriptor that matches a row of the table selects that row's operation, with its own operands (R65). -/
theorem decodeTrans_of_match {t : TransWord} {contact : Contact} {closed : Bool}
    (h : t &&& 0x108#9 = transitionMatch contact closed) :
    decodeTrans t = transitionInstr contact closed (t.extractLsb' 4 4) (t.extractLsb' 0 3) := by
  obtain ⟨rfl, rfl⟩ := transitionMatch_inj ((and_transition_mask t).symm.trans h)
  exact decodeTrans_eq t

/-- The rows of the match and mask table are exactly the operations (R65). -/
theorem match_iff_decodeTrans (t : TransWord) (contact : Contact) (closed : Bool) :
    t &&& 0x108#9 = transitionMatch contact closed ↔ ∃ p c, decodeTrans t = transitionInstr contact closed p c := by
  constructor
  · exact fun h => ⟨_, _, decodeTrans_of_match h⟩
  · rintro ⟨p, c, h⟩
    rw [decodeTrans_eq] at h
    obtain ⟨hContact, hClosed⟩ := transitionInstr_inj h
    rw [and_transition_mask, hContact, hClosed]

/-- Settles O44: every descriptor has under the mask the match value of its own two bits, which is one of the four. -/
theorem descriptorSelectsByMatchAndMask : Obligations.DescriptorSelectsByMatchAndMask := by
  intro t
  refine ⟨decodeTrans_of_match (contact := .make) (closed := true),
    decodeTrans_of_match (contact := .make) (closed := false), decodeTrans_of_match (contact := .brk) (closed := true),
    decodeTrans_of_match (contact := .brk) (closed := false), ?total⟩
  case total =>
    rw [and_transition_mask]
    cases contactOfWord t <;> cases t.getLsbD 8 <;> decide

end Sys2Proof.Machine
end

section
/-! SUPPORT. Decode and encode agree: phase codes, descriptors and messages one after the other (30_encoding.md sections
4, 5 and 6). -/

namespace Sys2Proof.Machine

/-! ### The three formats -/

theorem decodeTableWord_eq_some_iff (nbits w : Nat) (i : Instr) :
    decodeTableWord nbits w = some i ↔ decodeWord ⟨nbits, w⟩ = .ok i := by
  rw [decodeTableWord]
  cases decodeWord ⟨nbits, w⟩ <;> simp

/-- An accepted word is a phase code, a descriptor or a message (log entry 4). -/
theorem decodeWord_cases {w : RawWord} {i : Instr} (h : decodeWord w = .ok i) :
    (∃ c : BitVec 3, w = ⟨8, c.toNat⟩ ∧ i = (Phase.ofCode c).operation) ∨
    (∃ t : TransWord, w = ⟨16, t.toNat⟩ ∧ i = decodeTrans t) ∨
    ∃ m : MessageWord, w = ⟨24, m.toNat⟩ ∧ decodeMessage m = .ok i := by
  obtain ⟨nbits, bits⟩ := w
  simp only [decodeWord] at h
  split_ifs at h with hPhase hFits hTrans hFits hMessage hFits
  · refine .inl ⟨BitVec.ofNat 3 bits, ?_, (Except.ok.inj h).symm⟩
    rw [hPhase, BitVec.toNat_ofNat, Nat.mod_eq_of_lt hFits]
  · refine .inr (.inl ⟨BitVec.ofNat 9 bits, ?_, (Except.ok.inj h).symm⟩)
    rw [hTrans, BitVec.toNat_ofNat, Nat.mod_eq_of_lt hFits]
  · refine .inr (.inr ⟨BitVec.ofNat 24 bits, ?_, h⟩)
    rw [hMessage, BitVec.toNat_ofNat, Nat.mod_eq_of_lt hFits]

theorem decodeWord_descriptor (t : TransWord) : decodeWord ⟨16, t.toNat⟩ = .ok (decodeTrans t) := by
  simp [decodeWord, t.isLt]

theorem decodeWord_messageWord (m : MessageWord) : decodeWord ⟨24, m.toNat⟩ = decodeMessage m := by
  simp [decodeWord, m.isLt]

/-! ### Phase codes -/

theorem code_ofCode (c : BitVec 3) : (Phase.ofCode c).code = c := by
  revert c
  decide

theorem encode_operation (p : Phase) : encode p.operation = ⟨8, p.code.toNat⟩ := by
  cases p <;> rfl

theorem operation_wellFormed (p : Phase) : p.operation.wellFormed = true := by
  cases p <;> rfl

/-! ### Descriptors -/

theorem transitionInstr_wellFormed (contact : Contact) (closed : Bool) (pair : RowPair) (col : Column) :
    (transitionInstr contact closed pair col).wellFormed = true := by
  cases contact <;> cases closed <;> rfl

/-- A row is its pair and its parity (R62). -/
theorem row_eq_pair_add_parity (r : Row) : r.toNat = 2 * (pairOf r).toNat + (r.getLsbD 0).toNat := by
  rw [pairOf_toNat, row_getLsbD_zero]
  by_cases hOdd : r.toNat % 2 = 1 <;> simp [hOdd] <;> omega

/-- The encoder's word of a transition is its packed descriptor (R64). -/
theorem encode_transitionInstr (r : Row) (c : Column) (closed : Bool) :
    encode (transitionInstr (contactOf r) closed (pairOf r) c) = ⟨16, (packTrans r c closed).toNat⟩ := by
  have hWord : encode (transitionInstr (contactOf r) closed (pairOf r) c) =
      encodeTrans (pairOf r) (r.getLsbD 0) closed c := by
    rw [contactOf]
    cases r.getLsbD 0 <;> cases closed <;> rfl
  rw [hWord, encodeTrans, packTrans_toNat, row_eq_pair_add_parity r]

/-- Every descriptor is the packing of its own row, column and new state (R64). -/
theorem packTrans_fields (t : TransWord) : packTrans (t.extractLsb' 3 5) (t.extractLsb' 0 3) (t.getLsbD 8) = t := by
  apply BitVec.eq_of_toNat_eq
  have hWord := t.isLt
  have hClosed : (t.getLsbD 8).toNat = t.toNat / 256 := by
    rw [BitVec.getLsbD, Nat.toNat_testBit]
    omega
  rw [packTrans_toNat, BitVec.extractLsb'_toNat, BitVec.extractLsb'_toNat, hClosed, Nat.shiftRight_eq_div_pow,
    Nat.shiftRight_zero]
  omega

theorem encode_decodeTrans (t : TransWord) : encode (decodeTrans t) = ⟨16, t.toNat⟩ := by
  rw [← packTrans_fields t, decodeTrans_packTrans, encode_transitionInstr]

/-- Every row pair and contact type is those of a row (R62). -/
theorem exists_row (contact : Contact) (pair : RowPair) : ∃ r : Row, pairOf r = pair ∧ contactOf r = contact := by
  have hPair := pair.isLt
  cases contact
  case make =>
    refine ⟨BitVec.ofNat 5 (2 * pair.toNat), ?_, ?_⟩
    · rw [← BitVec.toNat_inj, pairOf_toNat, BitVec.toNat_ofNat]
      omega
    · rw [contactOf_eq_make_iff, BitVec.toNat_ofNat]
      omega
  case brk =>
    refine ⟨BitVec.ofNat 5 (2 * pair.toNat + 1), ?_, ?_⟩
    · rw [← BitVec.toNat_inj, pairOf_toNat, BitVec.toNat_ofNat]
      omega
    · rw [contactOf_eq_brk_iff, BitVec.toNat_ofNat]
      omega

theorem decodeWord_encode_transitionInstr (contact : Contact) (closed : Bool) (pair : RowPair) (col : Column) :
    decodeWord (encode (transitionInstr contact closed pair col)) = .ok (transitionInstr contact closed pair col) := by
  obtain ⟨r, rfl, rfl⟩ := exists_row contact pair
  rw [encode_transitionInstr, decodeWord_descriptor, decodeTrans_packTrans]

/-! ### Messages -/

/-- The operation of a message (R66, R67). -/
def messageInstr (on : Bool) (channel pitch : Byte) : Instr :=
  if on then .msgNoteOn channel pitch else .msgNoteOff channel pitch

/-- The three bytes of a message (R66, R67). -/
def messageBytes (on : Bool) (channel pitch : Byte) : List Byte :=
  if on then noteOnBytes channel pitch else noteOffBytes channel pitch

/-- The status byte of a message without its channel (R66, R67). -/
def messageStatus (on : Bool) : Byte := if on then 0x90 else 0x80

/-- The velocity byte of a message (R66, R67). -/
def messageVelocity (on : Bool) : Byte := if on then Config.velOn else Config.velOff

theorem messageBytes_eq (on : Bool) (channel pitch : Byte) :
    messageBytes on channel pitch = [messageStatus on ||| channel, pitch, messageVelocity on] := by
  cases on <;> rfl

theorem encode_messageInstr (on : Bool) (channel pitch : Byte) :
    encode (messageInstr on channel pitch) = encodeMessage (messageBytes on channel pitch) := by
  cases on <;> rfl

/-- The two forms of a message's 24-bit number (D31) agree. -/
theorem encodeMessage_eq_packMessage (status pitch velocity : Byte) :
    encodeMessage [status, pitch, velocity] = ⟨24, (packMessage status pitch velocity).toNat⟩ := by
  have hStatus := status.isLt
  have hPitch := pitch.isLt
  have hVelocity := velocity.isLt
  simp only [encodeMessage, packMessage, List.foldl, BitVec.toNat_ofNat, RawWord.mk.injEq, true_and]
  omega

/-- The bytes of a message's number do not overlap: it is the three side by side, the status uppermost (D31). -/
theorem packMessage_eq_append (status pitch velocity : Byte) :
    packMessage status pitch velocity = status ++ pitch ++ velocity := by
  have hStatus := status.isLt
  have hPitch := pitch.isLt
  have hVelocity := velocity.isLt
  apply BitVec.eq_of_toNat_eq
  rw [packMessage, BitVec.toNat_ofNat, BitVec.toNat_append, BitVec.toNat_append,
    ← Nat.shiftLeft_add_eq_or_of_lt hPitch, ← Nat.shiftLeft_add_eq_or_of_lt hVelocity, Nat.shiftLeft_eq,
    Nat.shiftLeft_eq]
  omega

theorem packMessage_inj {status pitch velocity status' pitch' velocity' : Byte} :
    packMessage status pitch velocity = packMessage status' pitch' velocity' ↔
      status = status' ∧ pitch = pitch' ∧ velocity = velocity' := by
  have hStatus := status.isLt
  have hPitch := pitch.isLt
  have hVelocity := velocity.isLt
  have hStatus' := status'.isLt
  have hPitch' := pitch'.isLt
  have hVelocity' := velocity'.isLt
  simp only [packMessage, ← BitVec.toNat_inj, BitVec.toNat_ofNat]
  omega

/-- The mask of section 5 compares the status without its channel, the top bit of the pitch byte, and the velocity. -/
theorem packMessage_and_mask_iff (status pitch velocity status' velocity' : Byte) :
    packMessage status pitch velocity &&& 0xFE80FF#24 = packMessage status' 0 velocity' ↔
      status &&& 0xFE = status' ∧ pitch &&& 0x80 = 0 ∧ velocity = velocity' := by
  have hMask : 0xFE80FF#24 = (0xFE#8 ++ 0x80#8) ++ BitVec.allOnes 8 := rfl
  rw [hMask, packMessage_eq_append, BitVec.and_append, BitVec.and_append, BitVec.and_allOnes, ← packMessage_eq_append,
    packMessage_inj]
  rfl

/-- The three bytes match the row of a note-on or of a note-off in the message table (R66, R67). -/
def isMessage (on : Bool) (status pitch velocity : Byte) : Prop :=
  status &&& 0xFE = messageStatus on ∧ pitch &&& 0x80 = 0 ∧ velocity = messageVelocity on

theorem match_noteOn_iff (status pitch velocity : Byte) :
    packMessage status pitch velocity &&& 0xFE80FF#24 = 0x90007F#24 ↔ isMessage true status pitch velocity :=
  packMessage_and_mask_iff status pitch velocity 0x90 0x7F

theorem match_noteOff_iff (status pitch velocity : Byte) :
    packMessage status pitch velocity &&& 0xFE80FF#24 = 0x800000#24 ↔ isMessage false status pitch velocity :=
  packMessage_and_mask_iff status pitch velocity 0x80 0x00

/-- A status byte that matches is the message's status with its own lowest bit as the channel (R66, R67). -/
theorem eq_or_channel_of_masked {status base : Byte} (h : status &&& 0xFE = base) :
    (status &&& 1).toNat ≤ 1 ∧ status = base ||| (status &&& 1) := by
  refine ⟨?_, ?_⟩
  · rw [BitVec.toNat_and]
    exact Nat.and_le_right
  · have hBits : (0xFE : Byte) ||| 1 = BitVec.allOnes 8 := rfl
    rw [← h, ← BitVec.and_or_distrib_left, hBits, BitVec.and_allOnes]

theorem le_127_of_masked {pitch : Byte} (h : pitch &&& 0x80 = 0) : pitch.toNat ≤ 127 := by
  have hPitch := pitch.isLt
  have hTop : pitch.toNat.testBit 7 = false := by
    have hAnd := BitVec.and_twoPow pitch 7
    by_contra hSet
    rw [BitVec.getLsbD, if_pos (by simpa using hSet)] at hAnd
    exact absurd (h.symm.trans hAnd) (by decide)
  rw [Nat.testBit_eq_decide_div_mod_eq, decide_eq_false_iff_not] at hTop
  omega

/-- The bytes of a message of the encoder's domain match its row of the table (R66, R67). -/
theorem isMessage_of_domain (on : Bool) {channel pitch : Byte} (hChannel : channel.toNat ≤ 1)
    (hPitch : pitch.toNat ≤ 127) : isMessage on (messageStatus on ||| channel) pitch (messageVelocity on) := by
  refine ⟨?_, pitch_and_mask hPitch, rfl⟩
  rw [status_and_mask _ hChannel]
  cases on <;> rfl

/-- Bytes that match a row of the table are a message of the encoder's domain (R66, R67, R69). -/
theorem domain_of_isMessage {on : Bool} {status pitch velocity : Byte} (h : isMessage on status pitch velocity) :
    ∃ channel : Byte, channel.toNat ≤ 1 ∧ pitch.toNat ≤ 127 ∧
      [status, pitch, velocity] = messageBytes on channel pitch := by
  obtain ⟨hStatus, hPitch, hVelocity⟩ := h
  obtain ⟨hChannel, hEq⟩ := eq_or_channel_of_masked hStatus
  exact ⟨_, hChannel, le_127_of_masked hPitch, by rw [messageBytes_eq, ← hEq, hVelocity]⟩

/-- The operands the decoder reads off a message's number (R66, R67). -/
theorem messageFields {status pitch : Byte} (velocity : Byte) (hPitch : pitch.toNat ≤ 127) :
    ((packMessage status pitch velocity).extractLsb' 16 1).setWidth 8 = status &&& 1 ∧
    ((packMessage status pitch velocity).extractLsb' 8 7).setWidth 8 = pitch := by
  have hStatus := status.isLt
  have hVelocity := velocity.isLt
  have hOne : status.toNat &&& 1 = status.toNat % 2 := Nat.and_one_is_mod _
  constructor <;> apply BitVec.eq_of_toNat_eq
  · rw [BitVec.toNat_setWidth, BitVec.extractLsb'_toNat, Nat.shiftRight_eq_div_pow, packMessage, BitVec.toNat_ofNat,
      BitVec.toNat_and]
    exact Eq.trans (by omega) hOne.symm
  · rw [BitVec.toNat_setWidth, BitVec.extractLsb'_toNat, Nat.shiftRight_eq_div_pow, packMessage, BitVec.toNat_ofNat]
    omega

theorem status_or_channel_and_one (on : Bool) {channel : Byte} (hChannel : channel.toNat ≤ 1) :
    (messageStatus on ||| channel) &&& 1 = channel := by
  obtain rfl | rfl := channel_eq_zero_or_one hChannel <;> cases on <;> rfl

/-- The decoder reads a message of the encoder's domain back from its three bytes (R66, R67). -/
theorem decodeMessage_packMessage (on : Bool) {channel pitch : Byte} (hChannel : channel.toNat ≤ 1)
    (hPitch : pitch.toNat ≤ 127) :
    decodeMessage (packMessage (messageStatus on ||| channel) pitch (messageVelocity on)) =
      .ok (messageInstr on channel pitch) := by
  obtain ⟨hReadChannel, hReadPitch⟩ :=
    messageFields (status := messageStatus on ||| channel) (messageVelocity on) hPitch
  have hMatch := isMessage_of_domain on hChannel hPitch
  simp only [decodeMessage, hReadChannel, hReadPitch, status_or_channel_and_one on hChannel]
  cases on
  case true =>
    rw [if_pos ((match_noteOn_iff _ _ _).mpr hMatch)]
    rfl
  case false =>
    have hNotOn : ¬ isMessage true (messageStatus false ||| channel) pitch (messageVelocity false) :=
      fun ⟨_, _, hVelocity⟩ => absurd hVelocity (by decide)
    rw [if_neg (mt (match_noteOn_iff _ _ _).mp hNotOn), if_pos ((match_noteOff_iff _ _ _).mpr hMatch)]
    rfl

/-- What the decoder accepts as a message is a message of the encoder's domain (R66, R67, R69). -/
theorem decodeMessage_eq_ok {status pitch velocity : Byte} {i : Instr}
    (h : decodeMessage (packMessage status pitch velocity) = .ok i) :
    ∃ on channel, channel.toNat ≤ 1 ∧ pitch.toNat ≤ 127 ∧
      [status, pitch, velocity] = messageBytes on channel pitch ∧ i = messageInstr on channel pitch := by
  have hMatch : ∃ on, isMessage on status pitch velocity := by
    simp only [decodeMessage] at h
    split_ifs at h with hOn hOff
    · exact ⟨true, (match_noteOn_iff _ _ _).mp hOn⟩
    · exact ⟨false, (match_noteOff_iff _ _ _).mp hOff⟩
  obtain ⟨on, hMatch⟩ := hMatch
  obtain ⟨channel, hChannel, hPitch, hBytes⟩ := domain_of_isMessage hMatch
  refine ⟨on, channel, hChannel, hPitch, hBytes, ?_⟩
  simp only [messageBytes_eq, List.cons.injEq, and_true, true_and] at hBytes
  obtain ⟨rfl, rfl⟩ := hBytes
  rw [decodeMessage_packMessage on hChannel hPitch] at h
  exact (Except.ok.inj h).symm

/-- Every 24-bit number is three bytes (D31). -/
theorem exists_packMessage (m : MessageWord) : ∃ status pitch velocity, m = packMessage status pitch velocity := by
  have hWord := m.isLt
  refine ⟨BitVec.ofNat 8 (m.toNat / 65536), BitVec.ofNat 8 (m.toNat / 256), BitVec.ofNat 8 m.toNat, ?_⟩
  apply BitVec.eq_of_toNat_eq
  simp only [packMessage, BitVec.toNat_ofNat]
  omega

theorem messageInstr_wellFormed_iff (on : Bool) (channel pitch : Byte) :
    (messageInstr on channel pitch).wellFormed = true ↔ channel.toNat ≤ 1 ∧ pitch.toNat ≤ 127 := by
  rw [← inEncoderDomain_iff]
  cases on <;> rfl

theorem decodeWord_encode_messageInstr {on : Bool} {channel pitch : Byte}
    (h : (messageInstr on channel pitch).wellFormed = true) :
    decodeWord (encode (messageInstr on channel pitch)) = .ok (messageInstr on channel pitch) := by
  obtain ⟨hChannel, hPitch⟩ := (messageInstr_wellFormed_iff on channel pitch).mp h
  rw [encode_messageInstr, messageBytes_eq, encodeMessage_eq_packMessage, decodeWord_messageWord,
    decodeMessage_packMessage on hChannel hPitch]

/-! ### Both directions -/

/-- Every operation is a phase's, a transition or a message, the three formats of the opcode table. -/
theorem instr_cases (i : Instr) : (∃ p : Phase, i = p.operation) ∨
    (∃ contact closed pair col, i = transitionInstr contact closed pair col) ∨
    ∃ on channel pitch, i = messageInstr on channel pitch := by
  cases i
  case idleWait => exact .inl ⟨.idle, rfl⟩
  case selectColumn => exact .inl ⟨.select, rfl⟩
  case setMuxAddr => exact .inl ⟨.setAddr, rfl⟩
  case settleWait => exact .inl ⟨.settle, rfl⟩
  case readSense => exact .inl ⟨.read, rfl⟩
  case detectChanges => exact .inl ⟨.diff, rfl⟩
  case handleTransition => exact .inl ⟨.handle, rfl⟩
  case advanceColumn => exact .inl ⟨.advance, rfl⟩
  case trMakeClose pair col => exact .inr (.inl ⟨.make, true, pair, col, rfl⟩)
  case trMakeOpen pair col => exact .inr (.inl ⟨.make, false, pair, col, rfl⟩)
  case trBreakClose pair col => exact .inr (.inl ⟨.brk, true, pair, col, rfl⟩)
  case trBreakOpen pair col => exact .inr (.inl ⟨.brk, false, pair, col, rfl⟩)
  case msgNoteOn channel pitch => exact .inr (.inr ⟨true, channel, pitch, rfl⟩)
  case msgNoteOff channel pitch => exact .inr (.inr ⟨false, channel, pitch, rfl⟩)

theorem decodeWord_encode {i : Instr} (h : i.wellFormed = true) : decodeWord (encode i) = .ok i := by
  obtain ⟨p, rfl⟩ | ⟨contact, closed, pair, col, rfl⟩ | ⟨on, channel, pitch, rfl⟩ := instr_cases i
  · rw [encode_operation]
    exact decodeWord_encodePhase p
  · exact decodeWord_encode_transitionInstr contact closed pair col
  · exact decodeWord_encode_messageInstr h

theorem encode_of_decodeWord {w : RawWord} {i : Instr} (h : decodeWord w = .ok i) :
    i.wellFormed = true ∧ encode i = w := by
  obtain ⟨c, rfl, rfl⟩ | ⟨t, rfl, rfl⟩ | ⟨m, rfl, hMessage⟩ := decodeWord_cases h
  · exact ⟨operation_wellFormed _, by rw [encode_operation, code_ofCode]⟩
  · refine ⟨?_, encode_decodeTrans t⟩
    rw [decodeTrans_eq]
    exact transitionInstr_wellFormed _ _ _ _
  · obtain ⟨status, pitch, velocity, rfl⟩ := exists_packMessage m
    obtain ⟨on, channel, hChannel, hPitch, hBytes, rfl⟩ := decodeMessage_eq_ok hMessage
    refine ⟨(messageInstr_wellFormed_iff on channel pitch).mpr ⟨hChannel, hPitch⟩, ?_⟩
    rw [encode_messageInstr, ← hBytes, encodeMessage_eq_packMessage]

/-- Settles O43: each direction format by format, the word of a format being its packed fields. -/
theorem decodeEncodeAgree : Obligations.DecodeEncodeAgree := by
  refine ⟨fun i hWellFormed => ?decodeOfEncode, fun nbits w i hDecode => ?encodeOfDecode⟩
  case decodeOfEncode => exact (decodeTableWord_eq_some_iff _ _ i).mpr (decodeWord_encode hWellFormed)
  case encodeOfDecode => exact encode_of_decodeWord ((decodeTableWord_eq_some_iff nbits w i).mp hDecode)

/-- Settles O47: the six words are the encoder's words of their operations, and the last two words match no row of the
message table. -/
theorem sampleWordsDecode : Obligations.SampleWordsDecode := by
  obtain ⟨hDecode, -⟩ := decodeEncodeAgree
  exact ⟨hDecode .readSense rfl, hDecode .advanceColumn rfl, hDecode (.trMakeClose 6 6) rfl,
    hDecode (.trBreakOpen 6 6) rfl, hDecode (.msgNoteOn 1 36) rfl, hDecode (.msgNoteOff 0 96) rfl, by decide, by decide⟩

end Sys2Proof.Machine
end

section
/-! SUPPORT. Byte streams of whole messages, and `tx` as one of them (30_encoding.md section 5, R69, R70). -/

namespace Sys2Proof.Machine

/-! ### Reading by position -/

theorem readMessages_messageBytes (on : Bool) {channel pitch : Byte} (hChannel : channel.toNat ≤ 1)
    (hPitch : pitch.toNat ≤ 127) :
    readMessages (messageBytes on channel pitch) = .ok [messageInstr on channel pitch] := by
  simp only [messageBytes_eq, readMessages, decodeMessage_packMessage on hChannel hPitch]

/-- Settles O46: by induction over the messages, each read back from its own three bytes. -/
theorem messageStreamIsReadBackByPosition : Obligations.MessageStreamIsReadBackByPosition := by
  intro msgs hDomain
  induction msgs with
  | nil => rfl
  | cons m msgs ih =>
    obtain ⟨⟨hChannel, hPitch⟩, hRest⟩ := List.forall_mem_cons.mp hDomain
    have hFirst : readMessages (if m.2.2 then noteOnBytes m.1 m.2.1 else noteOffBytes m.1 m.2.1) = .ok
      [messageInstr m.2.2 m.1 m.2.1] :=
      readMessages_messageBytes m.2.2 hChannel hPitch
    rw [List.flatMap_cons, readMessages_append _ _ _ hFirst, ih hRest]
    rfl

/-! ### Messages of the block -/

theorem keyMessage_eq_messageBytes (key : Nat) (on : Bool) :
    keyMessage key on = messageBytes on (channelOf key) (pitchOf key) := by
  cases on
  · exact (noteOffBytes_mapped key).symm
  · exact (noteOnBytes_mapped key).symm

/-- The bytes a key sends read as its one message (R70). -/
theorem readMessages_keyMessage (key : Nat) (on : Bool) :
    readMessages (keyMessage key on) = .ok [messageInstr on (channelOf key) (pitchOf key)] := by
  obtain ⟨hChannel, hPitch⟩ := (inEncoderDomain_iff _ _).mp (mapped_inEncoderDomain key)
  rw [keyMessage_eq_messageBytes, readMessages_messageBytes on hChannel hPitch]

theorem isBlockMessage_messageInstr (on : Bool) (channel pitch : Byte) :
    isBlockMessage (messageInstr on channel pitch) = true ↔
      channel.toNat ≤ 1 ∧ 36 ≤ pitch.toNat ∧ pitch.toNat ≤ 96 := by
  cases on <;> simp [messageInstr, isBlockMessage, and_assoc]

theorem txLegal_iff (bytes : List Byte) :
    txLegal bytes = true ↔ ∃ ms, readMessages bytes = .ok ms ∧ ms.all isBlockMessage = true := by
  rw [txLegal]
  cases readMessages bytes <;> simp

theorem txLegal_append {a b : List Byte} (ha : txLegal a = true) (hb : txLegal b = true) : txLegal (a ++ b) = true := by
  obtain ⟨ms, hReadA, hBlockA⟩ := (txLegal_iff a).mp ha
  obtain ⟨ns, hReadB, hBlockB⟩ := (txLegal_iff b).mp hb
  refine (txLegal_iff (a ++ b)).mpr ⟨ms ++ ns, ?_, ?_⟩
  · rw [readMessages_append a b ms hReadA, hReadB]
  · rw [List.all_append, hBlockA, hBlockB]
    rfl

/-- A key's message is one the block may send (R69, R133). -/
theorem txLegal_keyMessage (key : Nat) (on : Bool) : txLegal (keyMessage key on) = true := by
  refine (txLegal_iff _).mpr ⟨_, readMessages_keyMessage key on, ?_⟩
  obtain ⟨hChannel, -⟩ := (inEncoderDomain_iff _ _).mp (mapped_inEncoderDomain key)
  have hPitch := pitchOf_toNat key
  rw [List.all_cons, List.all_nil, Bool.and_true, isBlockMessage_messageInstr]
  omega

/-! ### The bytes of a legal `tx` -/

/-- The three bytes of a message of the block: status, pitch and velocity (R69). -/
def isBlockBytes (status pitch velocity : Byte) : Prop :=
  (status = 0x90 ∨ status = 0x91 ∨ status = 0x80 ∨ status = 0x81) ∧ 36 ≤ pitch.toNat ∧ pitch.toNat ≤ 96 ∧
    velocity = (if status.getLsbD 4 then 0x7F else 0x00)

theorem isBlockBytes_of_messageBytes {on : Bool} {channel status pitch velocity : Byte} (hChannel : channel.toNat ≤ 1)
    (hLow : 36 ≤ pitch.toNat) (hHigh : pitch.toNat ≤ 96)
    (hBytes : [status, pitch, velocity] = messageBytes on channel pitch) :
    isBlockBytes status pitch velocity := by
  simp only [messageBytes_eq, List.cons.injEq, and_true, true_and] at hBytes
  obtain ⟨rfl, rfl⟩ := hBytes
  refine ⟨?_, hLow, hHigh, ?_⟩ <;> obtain rfl | rfl := channel_eq_zero_or_one hChannel <;> cases on <;> decide

/-- A stream of the block's messages begins with one of them, and the rest is such a stream again (R70). -/
theorem isBlockBytes_of_txLegal {status pitch velocity : Byte} {rest : List Byte}
    (h : txLegal (status :: pitch :: velocity :: rest) = true) :
    isBlockBytes status pitch velocity ∧ txLegal rest = true := by
  obtain ⟨ms, hRead, hBlock⟩ := (txLegal_iff _).mp h
  rw [readMessages] at hRead
  split at hRead
  case h_1 i is hFirst hRest =>
    obtain rfl := Except.ok.inj hRead
    rw [List.all_cons, Bool.and_eq_true] at hBlock
    obtain ⟨hBlockFirst, hBlockRest⟩ := hBlock
    obtain ⟨on, channel, hChannel, -, hBytes, rfl⟩ := decodeMessage_eq_ok hFirst
    obtain ⟨-, hLow, hHigh⟩ := (isBlockMessage_messageInstr on channel pitch).mp hBlockFirst
    exact ⟨isBlockBytes_of_messageBytes hChannel hLow hHigh hBytes, (txLegal_iff rest).mpr ⟨is, hRest, hBlockRest⟩⟩
  case h_2 => contradiction
  case h_3 => contradiction

/-- A stream of the block's messages is made of triples of the block's byte values (R69, R70). -/
theorem blockBytes_of_txLegal (bytes : List Byte) (h : txLegal bytes = true) : bytes.length % 3 = 0 ∧
    ∀ n, 3 * n < bytes.length → ∃ st p v, bytes[3 * n]? = some st ∧ bytes[3 * n + 1]? = some p ∧
      bytes[3 * n + 2]? = some v ∧ isBlockBytes st p v := by
  match bytes with
  | [] => exact ⟨rfl, fun n hn => absurd hn (Nat.not_lt_zero _)⟩
  | [_] => exact absurd h (by simp [txLegal, readMessages])
  | [_, _] => exact absurd h (by simp [txLegal, readMessages])
  | status :: pitch :: velocity :: rest =>
    obtain ⟨hFirst, hRest⟩ := isBlockBytes_of_txLegal h
    obtain ⟨hLength, hMessages⟩ := blockBytes_of_txLegal rest hRest
    refine ⟨by simp only [List.length_cons]; omega, fun n hn => ?_⟩
    cases n with
    | zero => exact ⟨status, pitch, velocity, rfl, rfl, rfl, hFirst⟩
    | succ n =>
      simp only [List.length_cons] at hn
      exact hMessages n (by omega)

end Sys2Proof.Machine
end

section
/-! SUPPORT. The step of the block phase by phase: it always answers, looks at `rst` first, and follows the phase table
(45_scan_sequencer.md R160, R164; 70_reset_and_hazards.md R201). -/

namespace Sys2Proof.Machine

/-! ### Reset -/

/-- A step with `rst` asserted performs no operation (R201). -/
theorem step_of_rst {s : State} (h : s.levels.rst = true) : step s = .next (s.applyRst.elapse 1) := by
  rw [step, if_pos h]

/-- Settles O2: such a step leaves the reset state itself, but for the schedule and the step counter. -/
theorem rstLeavesTheResetTable : Obligations.RstLeavesTheResetTable := by
  refine ⟨fun s hRst => ?table, current_of_entry_none _ rfl, fun s hColumn => ⟨_, exec_selectColumn s, ?lineZero⟩⟩
  case table =>
    exact ⟨s.applyRst.elapse 1, step_of_rst hRst, rfl, rfl, rfl, rfl, rfl, rfl, rfl, snapAt_reset, rfl, rfl, rfl, rfl,
      current_of_entry_none _ rfl, rfl⟩
  case lineZero => exact congrArg onehot8 hColumn

/-! ### The step and the run -/

/-- Settles O3: with `rst` low a step is the decoded operation between the model's own bookkeeping. -/
theorem stepRunsTheSelectedOperation : Obligations.StepRunsTheSelectedOperation := by
  refine ⟨current_of_entry_none, fun s i hRst hCurrent => ?_⟩
  rw [step, hRst, hCurrent]
  rfl

/-- A step of the block answers a next state, which is the block's own again (R164). -/
theorem step_next_of_entry_none {s : State} (hEntry : s.entry = none) : ∃ t, step s = .next t ∧ t.entry = none := by
  rw [step_of_entry_none s hEntry]
  split_ifs
  · exact ⟨_, rfl, rfl⟩
  · obtain ⟨t, hExec, -⟩ := exec_operation_next s.phase s
    exact ⟨t.elapse 1, by rw [hExec, andThen_next], rfl⟩

/-- Settles O5: by induction over the length of the run. -/
theorem loopNeverHalts : Obligations.LoopNeverHalts := by
  intro n
  induction n with
  | zero => exact fun s hEntry => ⟨s, rfl, hEntry⟩
  | succ n ih =>
    intro s hEntry
    obtain ⟨u, hStep, hNext⟩ := step_next_of_entry_none hEntry
    rw [runSteps, hStep, andThen_next]
    exact ih u hNext

/-- Settles O7: outside READ no operation looks at the sense lines. -/
theorem senseIsSampledOnlyInRead : Obligations.SenseIsSampledOnlyInRead := by
  intro s l l' hEntry hPhase hRst hTickReq
  exact step_withLevels_congr hEntry hRst (fun _ => hTickReq) (fun hRead => absurd hRead hPhase)

/-! ### The phases' operations, as one state -/

/-- The state a phase's operation leaves (R100 to R121, R161). -/
def operationNext (p : Phase) (s : State) : State :=
  match p with
  | .idle => { s with phase := if s.levels.tickReq then .select else s.phase }
  | .select => { s with colDrive := onehot8 s.activeColumn, addrCur := 0, rowVec := 0x00000000, phase := .setAddr }
  | .setAddr => { s with muxAddr := s.addrCur.extractLsb' 0 3, phase := .settle }
  | .settle => { s with phase := .read }
  | .read => { s with rowVec := placeSense s.muxAddr s.levels.sense s.rowVec
                      addrCur := s.addrCur + 1
                      phase := if s.addrCur + 1 = 8 then .diff else .setAddr }
  | .diff => { s.setSnap s.activeColumn s.rowVec with
                changed := s.rowVec ^^^ s.snapAt s.activeColumn
                phase := .handle }
  | .handle => if s.changed = 0#32 then { s with phase := .advance } else consumeRow (leastRow s.changed) s
  | .advance => { s with activeColumn := s.activeColumn + 1, phase := .idle }

theorem exec_operation_eq (p : Phase) (s : State) : exec p.operation s = .next (operationNext p s) := by
  cases p
  case handle => exact exec_handleTransition s
  all_goals rfl

/-- A step of the block with `rst` low is the operation of its phase (R160). -/
theorem step_eq_operationNext {s : State} (hEntry : s.entry = none) (hRst : s.levels.rst = false) :
    step s = .next ((operationNext s.phase s).elapse 1) := by
  rw [step_of_entry_none s hEntry, exec_operation_eq, andThen_next, hRst]
  rfl

/-! ### The invariant -/

theorem inv_iff (s : State) : s.Inv ↔ s.driveOk = true ∧ s.addrOk = true ∧ s.changedOk = true ∧ s.snapOk = true ∧
    s.flagsOk = true ∧ txLegal s.tx = true ∧ s.entry = none := by
  simp only [State.Inv, State.inv, Bool.and_eq_true, beq_iff_eq, and_assoc]

/-- The end of a step empties the direct entry and touches nothing else that the invariant looks at. -/
theorem inv_elapse_iff (s : State) (n : Nat) : (s.elapse n).Inv ↔ s.driveOk = true ∧ s.addrOk = true ∧
    s.changedOk = true ∧ s.snapOk = true ∧ s.flagsOk = true ∧ txLegal s.tx = true := by
  rw [inv_iff]
  exact ⟨fun ⟨a, b, c, d, e, f, _⟩ => ⟨a, b, c, d, e, f⟩, fun ⟨a, b, c, d, e, f⟩ => ⟨a, b, c, d, e, f, rfl⟩⟩

/-- Settles O48: the reset state is one closed state, in which every part of the invariant computes. -/
theorem resetMeetsTheInvariant : Obligations.ResetMeetsTheInvariant := by
  show State.reset.Inv
  decide

/-- Exactly one of the eight drive lines is asserted (R25). -/
theorem popcount_onehot8 (c : Column) : popcount (onehot8 c) = 1 := by
  revert c
  decide

/-! ### What consuming a row keeps -/

theorem consumeRow_driveOk (r : Row) (s : State) : (consumeRow r s).driveOk = s.driveOk := by
  rw [consumeRow_frame]
  rfl

theorem consumeRow_addrOk (r : Row) (s : State) : (consumeRow r s).addrOk = s.addrOk := by
  rw [consumeRow_frame]
  rfl

theorem consumeRow_snapOk (r : Row) (s : State) : (consumeRow r s).snapOk = s.snapOk := by
  rw [consumeRow_frame]
  rfl

/-- Bits 128 to 255 of both bitmaps are clear: no flag above the last key is set (R22, R23). -/
theorem flagsOk_iff (s : State) : s.flagsOk = true ↔ ∀ k, 128 ≤ k → s.onSentAt k = false ∧ s.offSentAt k = false := by
  have hClear (v : FlagBits) : v >>> 128 = 0 ↔ ∀ k, 128 ≤ k → v.getLsbD k = false := by
    constructor
    · intro h k hk
      have hBit := congrArg (BitVec.getLsbD · (k - 128)) h
      rw [BitVec.getLsbD_ushiftRight, Nat.add_sub_cancel' hk] at hBit
      exact hBit.trans BitVec.getLsbD_zero
    · intro h
      apply BitVec.eq_of_getLsbD_eq
      intro i _
      rw [BitVec.getLsbD_ushiftRight]
      exact (h (128 + i) (Nat.le_add_right 128 i)).trans BitVec.getLsbD_zero.symm
  rw [State.flagsOk, Bool.and_eq_true, beq_iff_eq, beq_iff_eq, hClear, hClear]
  exact ⟨fun ⟨hOn, hOff⟩ k hk => ⟨hOn k hk, hOff k hk⟩,
    fun h => ⟨fun k hk => (h k hk).left, fun k hk => (h k hk).right⟩⟩

/-- A transition writes no flag but its own key's (R140). -/
theorem transitionNext_flags_of_ne (contact : Contact) (closed : Bool) {key k : Nat} (s : State) (hKey : key < 256)
    (hOther : k ≠ key) : (transitionNext contact closed key s).onSentAt k = s.onSentAt k ∧
      (transitionNext contact closed key s).offSentAt k = s.offSentAt k := by
  obtain ⟨hOn, hOff⟩ := transitionNext_flags contact closed key s k hKey
  rw [hOn, hOff, if_neg hOther, if_neg hOther]
  exact ⟨rfl, rfl⟩

/-- No key of the block is above 127, so a row leaves the upper halves of the bitmaps alone. -/
theorem consumeRow_flagsOk (r : Row) {s : State} (h : s.flagsOk = true) : (consumeRow r s).flagsOk = true := by
  rw [flagsOk_iff] at h ⊢
  intro k hk
  have hKey := keyOf_le_127 r s.activeColumn
  obtain ⟨hOn, hOff⟩ := transitionNext_flags_of_ne (contactOf r) (s.rowVec.getLsbD r.toNat)
    (key := keyOf r s.activeColumn) (k := k) { s with changed := setBit s.changed r.toNat false } (by omega) (by omega)
  rw [consumeRow, hOn, hOff]
  exact h k hk

/-! ### Every part of the invariant is kept by the phase's operation -/

theorem driveOk_operationNext {s : State} (h : s.driveOk = true) : (operationNext s.phase s).driveOk = true := by
  cases hPhase : s.phase <;> simp only [operationNext]
  case idle =>
    simp only [State.driveOk, hPhase] at h ⊢
    split_ifs <;> exact h
  case select => exact beq_self_eq_true (onehot8 s.activeColumn)
  case read =>
    simp only [State.driveOk, hPhase] at h ⊢
    split_ifs <;> exact h
  case handle =>
    split_ifs
    · simpa only [State.driveOk, hPhase] using h
    · rw [consumeRow_driveOk, h]
  case advance =>
    simp only [State.driveOk, hPhase, beq_iff_eq] at h ⊢
    rw [h, popcount_onehot8]
  all_goals simpa only [State.driveOk, hPhase, State.setSnap_colDrive, State.setSnap_activeColumn] using h

/-- Below 8 the address counter counts without wrapping (R27). -/
theorem addrCur_succ_toNat {a : BitVec 4} (h : a.toNat < 8) : (a + 1).toNat = a.toNat + 1 := by
  rw [BitVec.toNat_add]
  exact Nat.mod_eq_of_lt (by show a.toNat + 1 < 16; omega)

/-- From an address below 8 the two forms of READ's choice, of R112 and of R160, agree (log entry 8). -/
theorem addrCur_succ_lt_iff {a : BitVec 4} (h : a.toNat < 8) : (a + 1).toNat < 8 ↔ ¬ a + 1 = 8 := by
  have hEight : a + 1 = 8 ↔ (a + 1).toNat = 8 := BitVec.toNat_inj.symm
  have hSum := addrCur_succ_toNat h
  rw [hEight]
  omega

theorem addrOk_operationNext {s : State} (h : s.addrOk = true) : (operationNext s.phase s).addrOk = true := by
  cases hPhase : s.phase <;> simp only [operationNext]
  case idle =>
    simp only [State.addrOk, hPhase] at h ⊢
    split_ifs <;> exact h
  case select => rfl
  case setAddr =>
    simp only [State.addrOk, hPhase, decide_eq_true_eq, Bool.and_eq_true, beq_iff_eq] at h ⊢
    refine ⟨h, ?_⟩
    rw [BitVec.extractLsb'_toNat]
    exact Nat.mod_eq_of_lt h
  case read =>
    simp only [State.addrOk, hPhase, decide_eq_true_eq, Bool.and_eq_true, beq_iff_eq] at h ⊢
    obtain ⟨hAddr, hMux⟩ := h
    split_ifs with hLast
    · have hSeven := congrArg BitVec.toNat hLast
      rw [addrCur_succ_toNat hAddr] at hSeven
      have hMuxLast : s.muxAddr = 7 := BitVec.eq_of_toNat_eq (hMux.trans (Nat.succ.inj hSeven))
      rw [hLast, hMuxLast]
      rfl
    · exact decide_eq_true ((addrCur_succ_lt_iff hAddr).mpr hLast)
  case handle =>
    split_ifs
    · simpa only [State.addrOk, hPhase] using h
    · rw [consumeRow_addrOk, h]
  case advance =>
    simp only [State.addrOk, hPhase, decide_eq_true_eq, Bool.and_eq_true, beq_iff_eq] at h ⊢
    obtain ⟨hAddr, -⟩ := h
    rw [hAddr]
    decide
  all_goals simpa only [State.addrOk, hPhase, State.setSnap_addrCur, State.setSnap_muxAddr] using h

theorem changedOk_operationNext {s : State} (h : s.changedOk = true) : (operationNext s.phase s).changedOk = true := by
  cases hPhase : s.phase <;> simp only [operationNext]
  case idle =>
    simp only [State.changedOk, hPhase] at h ⊢
    split_ifs <;> exact h
  case read =>
    simp only [State.changedOk, hPhase] at h ⊢
    split_ifs <;> exact h
  case diff => rfl
  case handle =>
    split_ifs with hNone
    · simp only [State.changedOk, hNone, beq_self_eq_true]
    · simp only [State.changedOk, consumeRow_phase, hPhase]
  all_goals simpa only [State.changedOk, hPhase] using h

theorem snapOk_operationNext {s : State} (h : s.snapOk = true) : (operationNext s.phase s).snapOk = true := by
  cases hPhase : s.phase <;> simp only [operationNext]
  case idle =>
    simp only [State.snapOk, hPhase]
    split_ifs <;> rfl
  case read =>
    simp only [State.snapOk]
    split_ifs <;> rfl
  case diff =>
    show ((s.setSnap s.activeColumn s.rowVec).snapAt s.activeColumn == s.rowVec) = true
    rw [snapAt_setSnap, if_pos rfl, beq_self_eq_true]
  case handle =>
    split_ifs
    · simp only [State.snapOk, hPhase] at h
      exact h
    · rw [consumeRow_snapOk, h]
  all_goals rfl

theorem flagsOk_operationNext {p : Phase} {s : State} (h : s.flagsOk = true) : (operationNext p s).flagsOk = true := by
  cases p <;> simp only [operationNext]
  case handle =>
    split_ifs
    · exact h
    · exact consumeRow_flagsOk _ h
  all_goals exact h

theorem txLegal_operationNext {p : Phase} {s : State} (h : txLegal s.tx = true) :
    txLegal (operationNext p s).tx = true := by
  obtain hSame | ⟨-, key, on, -, hMessage⟩ := exec_operation_tx (exec_operation_eq p s)
  · rw [hSame, h]
  · rw [hMessage]
    exact txLegal_append h (txLegal_keyMessage key on)

/-- Settles O49: a reset leaves the reset state, and every part of the invariant is kept by every phase's operation. -/
theorem stepKeepsTheInvariant : Obligations.StepKeepsTheInvariant := by
  intro s hInv
  obtain ⟨hDrive, hAddr, hChanged, hSnap, hFlags, hTx, hEntry⟩ := (inv_iff s).mp hInv
  cases hRst : s.levels.rst
  case true =>
    refine ⟨_, step_of_rst hRst, ?_⟩
    exact resetMeetsTheInvariant
  case false =>
    refine ⟨_, step_eq_operationNext hEntry hRst, (inv_elapse_iff _ 1).mpr ?_⟩
    exact ⟨driveOk_operationNext hDrive, addrOk_operationNext hAddr, changedOk_operationNext hChanged,
      snapOk_operationNext hSnap, flagsOk_operationNext hFlags, txLegal_operationNext hTx⟩

/-! ### What the invariant says of single phases -/

/-- The address counter of a state in READ (R27). -/
theorem addrCur_lt_of_read {s : State} (hInv : s.Inv) (hPhase : s.phase = .read) : s.addrCur.toNat < 8 := by
  obtain ⟨-, hAddr, -⟩ := (inv_iff s).mp hInv
  simp only [State.addrOk, hPhase, Bool.and_eq_true, decide_eq_true_eq] at hAddr
  exact hAddr.left

/-- Settles O4: the step is the operation of the phase, and in READ the counter is below 8 before the step. -/
theorem phaseTable : Obligations.PhaseTable := by
  intro s hInv hRst
  obtain ⟨-, -, -, -, -, -, hEntry⟩ := (inv_iff s).mp hInv
  refine ⟨_, operationNext s.phase s, current_of_entry_none s hEntry, exec_operation_eq s.phase s,
    step_eq_operationNext hEntry hRst, rfl, ?_⟩
  rw [State.elapse_phase, exec_operation_phase (exec_operation_eq s.phase s), State.nextPhase]
  cases hPhase : s.phase
  case read =>
    show (if s.addrCur + 1 = 8 then Phase.diff else .setAddr) = if (s.addrCur + 1).toNat < 8 then .setAddr else .diff
    have hChoice := addrCur_succ_lt_iff (addrCur_lt_of_read hInv hPhase)
    by_cases hLast : s.addrCur + 1 = 8
    · rw [if_pos hLast, if_neg (fun hLess => hChoice.mp hLess hLast)]
    · rw [if_neg hLast, if_pos (hChoice.mpr hLast)]
  case handle => exact (ite_not _ _ _).symm
  all_goals rfl

theorem exec_setMuxAddr (s : State) :
    exec .setMuxAddr s = .next { s with muxAddr := s.addrCur.extractLsb' 0 3, phase := .settle } := rfl

/-- Settles O12: the low three bits are the value mod 8, and the invariant bounds the counter in SET_ADDR. -/
theorem setMuxAddrDrivesTheAddress : Obligations.SetMuxAddrDrivesTheAddress := by
  refine ⟨rfl, fun _ => current_of_phase, fun s => ⟨_, exec_setMuxAddr s, rfl, BitVec.extractLsb'_toNat 0 3 s.addrCur⟩,
    fun s hInv hPhase => ?_⟩
  obtain ⟨-, hAddr, -⟩ := (inv_iff s).mp hInv
  simp only [State.addrOk, hPhase, decide_eq_true_eq] at hAddr
  exact Nat.le_of_lt_succ hAddr

/-- Settles O50: the invariant has `tx` made of whole messages of the block. -/
theorem txHasOnlyWholeBlockMessages : Obligations.TxHasOnlyWholeBlockMessages := by
  intro s hInv
  obtain ⟨-, -, -, -, -, hTx, -⟩ := (inv_iff s).mp hInv
  exact blockBytes_of_txLegal s.tx hTx

end Sys2Proof.Machine
end

section
/-! SUPPORT. The debounce FSM on one key: what each transition sends and what it leaves in the two sent-flags
(43_debounce_fsm.md R135 to R140, R144; 70_reset_and_hazards.md R206, R207). -/

namespace Sys2Proof.Machine

/-! ### What a transition sends and leaves, by the flags of its key -/

theorem keyOfPair_lt_256 (p : RowPair) (c : Column) : keyOfPair p c < 256 := by
  have hPair := p.isLt
  have hColumn := c.isLt
  rw [keyOfPair]
  omega

theorem keyOf_lt_256 (r : Row) (c : Column) : keyOf r c < 256 := by
  have hKey := keyOf_le_127 r c
  omega

/-- The bytes a transition sends when the two flags of its key are as given (R136 to R139). -/
def transitionBytes (contact : Contact) (closed : Bool) (key : Nat) (onSent offSent : Bool) : List Byte :=
  match contact, closed with
  | .brk, _ => []
  | .make, true => if onSent then [] else keyMessage key true
  | .make, false => if offSent then [] else keyMessage key false

/-- What a transition makes of its key's onSent flag (R136 to R139). -/
def onSentAfter (contact : Contact) (closed onSent : Bool) : Bool :=
  match contact, closed with
  | .brk, true => false
  | .make, true => true
  | .brk, false => onSent
  | .make, false => onSent

/-- What a transition makes of its key's offSent flag (R136 to R139). -/
def offSentAfter (contact : Contact) (closed offSent : Bool) : Bool :=
  match contact, closed with
  | .brk, true => false
  | .make, false => true
  | .brk, false => offSent
  | .make, true => offSent

theorem transitionNext_tx_eq (contact : Contact) (closed : Bool) (key : Nat) (s : State) :
    (transitionNext contact closed key s).tx =
      s.tx ++ transitionBytes contact closed key (s.onSentAt key) (s.offSentAt key) := by
  cases contact <;> cases closed <;> simp only [transitionNext, transitionBytes]
  case make.false =>
    split_ifs
    · exact (List.append_nil _).symm
    · rfl
  case make.true =>
    split_ifs
    · exact (List.append_nil _).symm
    · rfl
  all_goals exact (List.append_nil _).symm

theorem onSentAt_transitionNext_self (contact : Contact) (closed : Bool) {key : Nat} (s : State) (hKey : key < 256) :
    (transitionNext contact closed key s).onSentAt key = onSentAfter contact closed (s.onSentAt key) := by
  obtain ⟨hOn, -⟩ := transitionNext_flags contact closed key s key hKey
  rw [hOn, if_pos rfl]
  cases contact <;> cases closed <;> rfl

theorem offSentAt_transitionNext_self (contact : Contact) (closed : Bool) {key : Nat} (s : State) (hKey : key < 256) :
    (transitionNext contact closed key s).offSentAt key = offSentAfter contact closed (s.offSentAt key) := by
  obtain ⟨-, hOff⟩ := transitionNext_flags contact closed key s key hKey
  rw [hOff, if_pos rfl]
  cases contact <;> cases closed <;> rfl

/-! ### The four transitions one by one -/

theorem transitionNext_makeClose_of_sent {key : Nat} {s : State} (h : s.onSentAt key = true) :
    transitionNext .make true key s = s.monitorClamp key := if_pos h

theorem transitionNext_makeClose_of_clear {key : Nat} {s : State} (h : s.onSentAt key = false) :
    transitionNext .make true key s = ((s.monitorClamp key).setOnSent key true).emit (keyMessage key true) :=
  if_neg (Bool.eq_false_iff.mp h)

theorem transitionNext_makeOpen_of_sent {key : Nat} {s : State} (h : s.offSentAt key = true) :
    transitionNext .make false key s = s.monitorClamp key := if_pos h

theorem transitionNext_makeOpen_of_clear {key : Nat} {s : State} (h : s.offSentAt key = false) :
    transitionNext .make false key s = ((s.monitorClamp key).setOffSent key true).emit (keyMessage key false) :=
  if_neg (Bool.eq_false_iff.mp h)

/-- Settles O24: the descriptor of a transition selects the operation that performs it; the mapping sets clampSeen, and
at most the key's message is appended. -/
theorem handleTransitionRunsTheSelectedTransition : Obligations.HandleTransitionRunsTheSelectedTransition := by
  intro r c closed s
  refine ⟨?selected, decodeTrans_packTrans r c closed, _, handleTransition_next r c closed s, ?clamp, ?tx⟩
  case selected => rw [decodeTrans_packTrans, exec_transitionInstr, keyOfPair_pairOf, handleTransition_next]
  case clamp =>
    rw [transitionNext_frame]
    rfl
  case tx => exact transitionNext_tx (contactOf r) closed (keyOf r c) s

/-- Settles O25: both flag writes clear the key's bit alone. -/
theorem breakCloseRearmsTheKey : Obligations.BreakCloseRearmsTheKey := by
  refine ⟨fun t => match_iff_decodeTrans t .brk true, fun p c s => ⟨_, exec_trBreakClose p c s, rfl, ?on, ?off⟩⟩
  case on => exact getLsbD_setBit_false s.onSent (keyOfPair p c)
  case off => exact getLsbD_setBit_false s.offSent (keyOfPair p c)

/-- Settles O26: the transition is the clamp monitor of its key alone. -/
theorem breakOpenDoesNothing : Obligations.BreakOpenDoesNothing :=
  ⟨fun t => match_iff_decodeTrans t .brk false, exec_trBreakOpen⟩

/-- Setting a bit that the vector has sets that bit alone. -/
theorem getLsbD_setBit_true {n : Nat} (v : BitVec n) {i : Nat} (hi : i < n) (j : Nat) :
    (setBit v i true).getLsbD j = (v.getLsbD j || j == i) := by
  rw [getLsbD_setBit]
  obtain rfl | hOther := eq_or_ne j i
  · simp [hi]
  · simp [hOther]

/-- Settles O27: by the key's onSent flag. -/
theorem makeCloseSendsNoteOnOnce : Obligations.MakeCloseSendsNoteOnOnce := by
  refine ⟨fun t => match_iff_decodeTrans t .make true, fun p c s => ⟨fun hSent => ?sent, fun hClear => ?clear⟩⟩
  case sent => exact (exec_trMakeClose p c s).trans (congrArg _ (transitionNext_makeClose_of_sent hSent))
  case clear =>
    refine ⟨_, (exec_trMakeClose p c s).trans (congrArg _ (transitionNext_makeClose_of_clear hClear)), rfl, ?_⟩
    exact getLsbD_setBit_true s.onSent (keyOfPair_lt_256 p c)

/-- Settles O28: by the key's offSent flag. -/
theorem makeOpenSendsNoteOffOnce : Obligations.MakeOpenSendsNoteOffOnce := by
  refine ⟨fun t => match_iff_decodeTrans t .make false, fun p c s => ⟨fun hSent => ?sent, fun hClear => ?clear⟩⟩
  case sent => exact (exec_trMakeOpen p c s).trans (congrArg _ (transitionNext_makeOpen_of_sent hSent))
  case clear =>
    refine ⟨_, (exec_trMakeOpen p c s).trans (congrArg _ (transitionNext_makeOpen_of_clear hClear)), rfl, ?_⟩
    exact getLsbD_setBit_true s.offSent (keyOfPair_lt_256 p c)

/-- Settles O30: a transition writes flags at its own key only. -/
theorem transitionsOfOneKeyLeaveTheOthers : Obligations.TransitionsOfOneKeyLeaveTheOthers := by
  intro r c closed s t k hNext hOther
  rw [handleTransition_next] at hNext
  injection hNext with hNext
  subst hNext
  exact transitionNext_flags_of_ne _ _ s (keyOf_lt_256 r c) hOther

/-! ### Sequences of transitions of one key -/

/-- Settles O32: the opening of the break contact is the clamp monitor alone, which the opening of the make contact runs
too, and which looks at no flag. -/
theorem releaseOrderDoesNotMatter : Obligations.ReleaseOrderDoesNotMatter := by
  intro p c s
  have hFlag : (s.monitorClamp (keyOfPair p c)).offSentAt (keyOfPair p c) = s.offSentAt (keyOfPair p c) := rfl
  simp only [execAll, exec_trMakeOpen, exec_trBreakOpen, andThen_next]
  congr 1
  cases hOff : s.offSentAt (keyOfPair p c)
  case false =>
    rw [transitionNext_makeOpen_of_clear hOff]
    exact (transitionNext_makeOpen_of_clear (hFlag.trans hOff)).symm
  case true =>
    rw [transitionNext_makeOpen_of_sent hOff]
    exact (transitionNext_makeOpen_of_sent (hFlag.trans hOff)).symm

/-- From a rearmed key, the transitions of a make bounce on release send a note-off and a note-on, and the last opening
sends nothing (R206). -/
theorem execAll_bounce {p : RowPair} {c : Column} {s : State} (hOn : s.onSentAt (keyOfPair p c) = false)
    (hOff : s.offSentAt (keyOfPair p c) = false) :
    ∃ u, execAll [.trMakeOpen p c, .trMakeClose p c, .trMakeOpen p c, .trBreakOpen p c] s = .next u ∧
      u.tx = s.tx ++ (keyMessage (keyOfPair p c) false ++ keyMessage (keyOfPair p c) true) := by
  have hKey := keyOfPair_lt_256 p c
  simp only [execAll, exec_trMakeOpen, exec_trMakeClose, exec_trBreakOpen, andThen_next]
  refine ⟨_, rfl, ?_⟩
  simp only [transitionNext_tx_eq, onSentAt_transitionNext_self _ _ _ hKey, offSentAt_transitionNext_self _ _ _ hKey,
    hOn, hOff, transitionBytes, onSentAfter, offSentAfter]
  simp

/-- Settles O34: flag by flag through the two closures, then the bounce from the rearmed key. -/
theorem makeThenBreakClosureRearmsBeforeABounce : Obligations.MakeThenBreakClosureRearmsBeforeABounce := by
  intro p c s (hOn : s.onSentAt (keyOfPair p c) = false)
  have hKey := keyOfPair_lt_256 p c
  have hOnClear := onSentAt_transitionNext_self .brk true (transitionNext .make true (keyOfPair p c) s) hKey
  have hOffClear := offSentAt_transitionNext_self .brk true (transitionNext .make true (keyOfPair p c) s) hKey
  obtain ⟨u, hBounce, hBytes⟩ := execAll_bounce hOnClear hOffClear
  refine ⟨_, u, ?run, ?tx, hOnClear, hOffClear, hBounce, hBytes⟩
  case run => simp only [execAll, exec_trMakeClose, exec_trBreakClose, andThen_next]
  case tx =>
    show _ = s.tx ++ keyMessage (keyOfPair p c) true
    simp [transitionNext_tx_eq, transitionBytes, hOn]

/-- Settles O35: flag by flag through the three transitions. -/
theorem makeBounceWhileHeldEndsTheNote : Obligations.MakeBounceWhileHeldEndsTheNote := by
  intro p c s (hOn : s.onSentAt (keyOfPair p c) = false) (hOff : s.offSentAt (keyOfPair p c) = false)
  have hKey := keyOfPair_lt_256 p c
  refine ⟨transitionNext .make true (keyOfPair p c) (transitionNext .make false (keyOfPair p c)
    (transitionNext .make true (keyOfPair p c) s)), ?run, ?tx, ?on, ?off⟩
  case run => simp only [execAll, exec_trMakeClose, exec_trMakeOpen, andThen_next]
  case tx =>
    show _ = s.tx ++ (keyMessage (keyOfPair p c) true ++ keyMessage (keyOfPair p c) false)
    simp [transitionNext_tx_eq, onSentAt_transitionNext_self _ _ _ hKey, offSentAt_transitionNext_self _ _ _ hKey,
      hOn, hOff, transitionBytes, onSentAfter, offSentAfter]
  case on => exact onSentAt_transitionNext_self .make true _ hKey
  case off =>
    refine (offSentAt_transitionNext_self .make true _ hKey).trans ?_
    exact offSentAt_transitionNext_self .make false _ hKey

end Sys2Proof.Machine
end

section
/-! SUPPORT. The mapper over a sequence of transitions: its trace, and what it does to the flags of one key
(43_debounce_fsm.md R140; 45_scan_sequencer.md R167). -/

namespace Sys2Proof.Machine

/-! ### The trace -/

/-- The trace begins with the bytes of the first transition (R167). -/
theorem mapperTrace_cons (r : Row) (c : Column) (closed : Bool) (ts : List (Row × Column × Bool)) (s : State) :
    mapperTrace ((r, c, closed) :: ts) s =
      (keyOf r c,
        transitionBytes (contactOf r) closed (keyOf r c) (s.onSentAt (keyOf r c)) (s.offSentAt (keyOf r c))) ::
        mapperTrace ts (transitionNext (contactOf r) closed (keyOf r c) s) := by
  simp only [mapperTrace, handleTransition_next]
  rw [txPresentedSince_of_append _ s _ (transitionNext_tx_eq (contactOf r) closed (keyOf r c) s)]

theorem mapperTrace_length (ts : List (Row × Column × Bool)) (s : State) : (mapperTrace ts s).length = ts.length := by
  induction ts generalizing s with
  | nil => rfl
  | cons x ts ih => rw [mapperTrace_cons, List.length_cons, List.length_cons, ih]

/-- The mapper appends to `tx` the bytes of its trace (R44, R167). -/
theorem transitionsNext_tx (ts : List (Row × Column × Bool)) (s : State) :
    (transitionsNext ts s).tx = s.tx ++ (mapperTrace ts s).flatMap (fun e => e.2) := by
  induction ts generalizing s with
  | nil => exact (List.append_nil s.tx).symm
  | cons x ts ih =>
    rw [mapperTrace_cons, List.flatMap_cons, transitionsNext, ih, transitionNext_tx_eq, List.append_assoc]

/-! ### At most one note of each kind -/

/-- The flag of a key that a message of the given kind sets (R138, R139). -/
def State.sentAt (s : State) (on : Bool) (key : Nat) : Bool := if on then s.onSentAt key else s.offSentAt key

/-- A key's two messages differ in their velocity (R66, R67). -/
theorem keyMessage_inj {key : Nat} {on on' : Bool} (h : keyMessage key on = keyMessage key on') : on = on' := by
  revert h
  cases on <;> cases on' <;> simp [keyMessage]

theorem keyMessage_ne_nil (key : Nat) (on : Bool) : keyMessage key on ≠ [] := List.cons_ne_nil _ _

/-- A make contact sends the message of its new state unless the flag of that message is set (R138, R139). -/
theorem transitionBytes_make (closed : Bool) (key : Nat) (s : State) :
    transitionBytes .make closed key (s.onSentAt key) (s.offSentAt key) =
      if s.sentAt closed key then [] else keyMessage key closed := by
  cases closed <;> rfl

theorem sentAt_transitionNext_make (closed on : Bool) {key : Nat} (s : State) (hKey : key < 256) :
    (transitionNext .make closed key s).sentAt on key = (on == closed || s.sentAt on key) := by
  have hOn := onSentAt_transitionNext_self .make closed s hKey
  have hOff := offSentAt_transitionNext_self .make closed s hKey
  cases on <;> cases closed <;> simp only [State.sentAt, hOn, hOff] <;> rfl

theorem sentAt_transitionNext_of_ne (contact : Contact) (closed on : Bool) {key key' : Nat} (s : State)
    (hKey : key' < 256) (hOther : key ≠ key') :
    (transitionNext contact closed key' s).sentAt on key = s.sentAt on key := by
  obtain ⟨hOn, hOff⟩ := transitionNext_flags_of_ne contact closed s hKey hOther
  rw [State.sentAt, hOn, hOff, State.sentAt]

/-- A message of a key is sent only when its flag is clear, and then sets it; but for a rearm nothing clears it. So the
message just sent and the flag before count at most as much as the flag after (R140). -/
theorem count_add_sentAt_le (contact : Contact) (closed on : Bool) {key key' : Nat} (s : State) (hKey : key' < 256)
    (hNoRearm : key' = key → contact = .brk → closed = false) :
    (key' == key &&
        transitionBytes contact closed key' (s.onSentAt key') (s.offSentAt key') == keyMessage key on).toNat +
      (s.sentAt on key).toNat ≤ ((transitionNext contact closed key' s).sentAt on key).toNat := by
  by_cases hSame : key' = key
  case neg =>
    rw [sentAt_transitionNext_of_ne contact closed on s hKey (Ne.symm hSame), beq_false_of_ne hSame]
    exact (Nat.zero_add _).le
  case pos =>
    subst hSame
    have hNil : ([] == keyMessage key' on) = false := beq_false_of_ne (keyMessage_ne_nil key' on).symm
    cases contact
    case brk =>
      obtain rfl := hNoRearm rfl rfl
      rw [transitionBytes, hNil, Bool.and_false]
      exact (Nat.zero_add _).le
    case make =>
      rw [transitionBytes_make, sentAt_transitionNext_make closed on s hKey]
      by_cases hKind : on = closed
      · subst hKind
        cases hSent : s.sentAt on key' <;> simp [hNil]
      · have hOther : (keyMessage key' closed == keyMessage key' on) = false :=
          beq_false_of_ne fun h => hKind (keyMessage_inj h).symm
        split_ifs <;> simp [hNil, hOther, beq_false_of_ne hKind]

/-- Without a rearm of the key, its messages of one kind and the flag they set count at most one (R140). -/
theorem countP_mapperTrace_add_sentAt_le (ts : List (Row × Column × Bool)) (s : State) (key : Nat) (on : Bool)
    (hNoRearm : ∀ x ∈ ts, keyOf x.1 x.2.1 = key → contactOf x.1 = .brk → x.2.2 = false) :
    (mapperTrace ts s).countP (fun e => e.1 == key && e.2 == keyMessage key on) + (s.sentAt on key).toNat ≤ 1 := by
  induction ts generalizing s with
  | nil =>
    rw [mapperTrace, List.countP_nil, Nat.zero_add]
    exact Bool.toNat_le _
  | cons x ts ih =>
    obtain ⟨r, c, closed⟩ := x
    obtain ⟨hFirst, hRest⟩ := List.forall_mem_cons.mp hNoRearm
    have hCount := count_add_sentAt_le (contactOf r) closed on s (keyOf_lt_256 r c) hFirst
    have hTail := ih (transitionNext (contactOf r) closed (keyOf r c) s) hRest
    rw [Bool.toNat, Bool.cond_eq_ite] at hCount
    rw [mapperTrace_cons, List.countP_cons, Nat.add_assoc]
    exact (Nat.add_le_add_left hCount _).trans hTail

/-- Settles O29: the count of a key's messages of one kind is bounded by the flag they set. -/
theorem atMostOneNoteOfEachKindBetweenRearms : Obligations.AtMostOneNoteOfEachKindBetweenRearms := by
  intro ts s key hNoRearm
  refine ⟨mapperTrace_length ts s, fun on => ?_⟩
  exact (Nat.le_add_right _ _).trans (countP_mapperTrace_add_sentAt_le ts s key on hNoRearm)

/-! ### A rearmed key stays rearmed until its make contact closes -/

/-- The transitions of `ts` hold no make closure of the key. -/
def NoMakeClosure (key : Nat) (ts : List (Row × Column × Bool)) : Prop :=
  ∀ x ∈ ts, keyOf x.1 x.2.1 = key → contactOf x.1 = .make → x.2.2 = false

/-- Only a make closure of the key sets its onSent flag (R138). -/
theorem onSentAt_transitionNext_of_clear {contact : Contact} {closed : Bool} {key key' : Nat} {s : State}
    (hKey : key' < 256) (hNoClosure : key' = key → contact = .make → closed = false) (hClear : s.onSentAt key = false) :
    (transitionNext contact closed key' s).onSentAt key = false := by
  by_cases hSame : key' = key
  case neg => rw [(transitionNext_flags_of_ne contact closed s hKey (Ne.symm hSame)).left, hClear]
  case pos =>
    subst hSame
    rw [onSentAt_transitionNext_self contact closed s hKey, hClear]
    cases contact
    case make => rw [hNoClosure rfl rfl]; rfl
    case brk => cases closed <;> rfl

theorem onSentAt_transitionsNext_of_clear {ts : List (Row × Column × Bool)} {key : Nat} {s : State}
    (hNoClosure : NoMakeClosure key ts) (hClear : s.onSentAt key = false) :
    (transitionsNext ts s).onSentAt key = false := by
  induction ts generalizing s with
  | nil => exact hClear
  | cons x ts ih =>
    obtain ⟨hFirst, hRest⟩ := List.forall_mem_cons.mp hNoClosure
    exact ih hRest (onSentAt_transitionNext_of_clear (keyOf_lt_256 _ _) hFirst hClear)

/-- Settles O31: the break closure clears the flag, nothing in between sets it, and the make closure finds it clear. -/
theorem rearmThenPressSendsNoteOn : Obligations.RearmThenPressSendsNoteOn := by
  intro p c s between (hNoClosure : NoMakeClosure (keyOfPair p c) between)
  have hKey := keyOfPair_lt_256 p c
  have hOn := onSentAt_transitionNext_self .brk true s hKey
  have hOff := offSentAt_transitionNext_self .brk true s hKey
  have hClear := onSentAt_transitionsNext_of_clear hNoClosure hOn
  refine ⟨_, _, _, exec_trBreakClose p c s, rfl, hOn, hOff, handleAll_next between _, exec_trMakeClose p c _, ?tx,
    onSentAt_transitionNext_self .make true _ hKey, offSentAt_transitionNext_self .make true _ hKey⟩
  case tx =>
    rw [transitionNext_makeClose_of_clear hClear]
    rfl

end Sys2Proof.Machine
end

section
/-! SUPPORT. Which operation writes which element of the state (10_state.md section 1), the clamp flag along a step
(R31, R142) and the change detector called twice (42_change_detector.md R122). -/

namespace Sys2Proof.Machine

/-! ### Written by -/

/-- A message's operation, where it answers, is an emission and nothing else (R150). -/
theorem exec_messageInstr_eq {on : Bool} {channel pitch : Byte} {s t : State}
    (h : exec (messageInstr on channel pitch) s = .next t) : t = s.emit (messageBytes on channel pitch) := by
  have hSend := (exec_message channel pitch on s).symm.trans h
  obtain ⟨-, hNext⟩ | ⟨-, hRefused⟩ := sendNote_cases channel pitch on s
  · rw [hNext] at hSend
    injection hSend with hSend
    exact hSend.symm
  · rw [hRefused] at hSend
    contradiction

/-- Only a closure writes onSent (R136, R138). -/
theorem transitionNext_open_onSent (contact : Contact) (key : Nat) (s : State) :
    (transitionNext contact false key s).onSent = s.onSent := by
  cases contact
  case make => cases hSent : s.offSentAt key <;> simp [transitionNext, hSent]
  case brk => rfl

/-- TR_MAKE_CLOSE does not write offSent (R138). -/
theorem transitionNext_makeClose_offSent (key : Nat) (s : State) :
    (transitionNext .make true key s).offSent = s.offSent := by
  cases hSent : s.onSentAt key <;> simp [transitionNext, hSent]

/-- TR_BREAK_OPEN is the clamp monitor alone (R137). -/
theorem transitionNext_breakOpen (key : Nat) (s : State) : transitionNext .brk false key s = s.monitorClamp key := rfl

/-- A break contact sends nothing (R136, R137). -/
theorem transitionNext_brk_tx (closed : Bool) (key : Nat) (s : State) :
    (transitionNext .brk closed key s).tx = s.tx := by
  cases closed <;> rfl

/-- Settles O8: format by format, a phase's operation, a transition or a message. -/
theorem elementsAreWrittenOnlyByTheirOperations : Obligations.ElementsAreWrittenOnlyByTheirOperations := by
  intro i s t hExec
  obtain ⟨p, rfl⟩ | ⟨contact, closed, pair, col, rfl⟩ | ⟨on, channel, pitch, rfl⟩ := instr_cases i
  · rw [exec_operation_eq] at hExec
    injection hExec with hExec
    subst hExec
    cases p
    case handle =>
      simp only [operationNext]
      split_ifs
      · simp [Phase.operation]
      · rw [consumeRow_frame]
        simp [Phase.operation]
    all_goals simp [Phase.operation, operationNext]
  · rw [exec_transitionInstr] at hExec
    injection hExec with hExec
    subst hExec
    rw [transitionNext_frame]
    cases contact <;> cases closed <;>
      simp [transitionInstr, transitionNext_open_onSent, transitionNext_makeClose_offSent, transitionNext_breakOpen,
        transitionNext_brk_tx]
  · rw [exec_messageInstr_eq hExec]
    cases on <;> simp [messageInstr]

/-! ### The clamp flag -/

/-- Settles O36: consuming a row runs the clamp monitor on its key, and nothing else in a step touches the flag. -/
theorem clampSeenIsStickyAndExact : Obligations.ClampSeenIsStickyAndExact := by
  intro s t hUndisturbed hStep
  have hRst : s.levels.rst = false := hUndisturbed.right 0 Nat.zero_lt_one
  rw [step_eq_operationNext hUndisturbed.left hRst] at hStep
  injection hStep with hStep
  subst hStep
  rw [State.elapse_clampSeen]
  refine ⟨fun hPhase r hSet hLeast => ?handled, fun hIdle => ?unchanged⟩
  case handled =>
    obtain ⟨hChanged, hRow⟩ := leastRow_unique s.changed r hSet hLeast
    rw [hPhase, operationNext, if_neg hChanged, hRow, consumeRow_frame]
    rfl
  case unchanged =>
    cases hPhase : s.phase
    case handle =>
      have hNone := hIdle.resolve_left (fun hOther => hOther hPhase)
      rw [operationNext, if_pos hNone]
    all_goals rfl

/-! ### The change detector twice -/

/-- Settles O17: the first call makes the snapshot equal to the row vector, which the second then compares with. -/
theorem detectTwiceFindsNoChange : Obligations.DetectTwiceFindsNoChange := by
  intro s
  refine ⟨_, _, exec_detectChanges s, exec_detectChanges _, ?noChange, fun c => ?sameSnapshots⟩
  case noChange =>
    have hSnap := snapAt_of_exec_detectChanges (exec_detectChanges s) s.activeColumn
    rw [if_pos rfl] at hSnap
    exact (congrArg (s.rowVec ^^^ ·) hSnap).trans BitVec.xor_self
  case sameSnapshots =>
    rw [snapAt_of_exec_detectChanges (exec_detectChanges _)]
    split_ifs with hActive
    · subst hActive
      rw [snapAt_of_exec_detectChanges (exec_detectChanges s)]
      exact (if_pos rfl).symm
    · rfl

end Sys2Proof.Machine
end

section
/-! SUPPORT. The sampled row vector, the rows that changed, and the tick as one state (41_row_sampler.md R114;
42_change_detector.md R121, R124; 45_scan_sequencer.md R162; 40_column_driver.md R103). -/

namespace Sys2Proof.Machine

/-! ### The sampled row vector -/

/-- After the reads at a list of addresses a row's bit is the one its address read, where its address was read. -/
theorem getLsbD_foldl_placeSense (words : MuxAddr → Sense) (ms : List MuxAddr) (v : RowBits) {r : Nat} (hr : r < 32) :
    (ms.foldl (fun v m => placeSense m (words m) v) v).getLsbD r =
      if BitVec.ofNat 3 (r % 16 / 2) ∈ ms then (words (BitVec.ofNat 3 (r % 16 / 2))).getLsbD (2 * (r / 16) + r % 2)
      else v.getLsbD r := by
  induction ms generalizing v with
  | nil => rfl
  | cons m ms ih =>
    have hAddr : r % 16 / 2 = m.toNat ↔ BitVec.ofNat 3 (r % 16 / 2) = m := by
      rw [← BitVec.toNat_inj, BitVec.toNat_ofNat, Nat.mod_eq_of_lt (by omega : r % 16 / 2 < 2 ^ 3)]
    rw [List.foldl_cons, ih, getLsbD_placeSense _ _ _ _ hr]
    simp only [hAddr, List.mem_cons]
    by_cases hHere : BitVec.ofNat 3 (r % 16 / 2) = m
    · simp only [hHere, true_or, if_true, ite_self]
    · simp only [hHere, false_or, if_false]

theorem mem_muxOrder (m : MuxAddr) : m ∈ muxOrder := by
  revert m
  decide

/-- Settles O15: every row's address is one of the eight read. -/
theorem sampleColumnHasEveryRowFromItsAddress : Obligations.SampleColumnHasEveryRowFromItsAddress := by
  intro words v r hr
  rw [sampleColumn, getLsbD_foldl_placeSense words muxOrder v hr, if_pos (mem_muxOrder _)]

/-! ### The changed rows -/

theorem mem_changedRows (d : RowBits) (r : Row) : r ∈ changedRows d ↔ d.getLsbD r.toNat = true := by
  simp only [changedRows, List.mem_map, List.mem_filter, List.mem_range]
  constructor
  · rintro ⟨n, ⟨hn, hSet⟩, rfl⟩
    rwa [BitVec.toNat_ofNat, Nat.mod_eq_of_lt hn]
  · intro hSet
    refine ⟨r.toNat, ⟨r.isLt, hSet⟩, BitVec.eq_of_toNat_eq ?_⟩
    rw [BitVec.toNat_ofNat, Nat.mod_eq_of_lt r.isLt]

theorem changedRows_pairwise (d : RowBits) : (changedRows d).Pairwise (fun a b => a.toNat < b.toNat) := by
  rw [changedRows, List.pairwise_map]
  refine (List.pairwise_lt_range.filter _).imp_of_mem ?_
  intro a b ha hb hLess
  simp only [List.mem_filter, List.mem_range] at ha hb
  obtain ⟨ha, -⟩ := ha
  obtain ⟨hb, -⟩ := hb
  rw [BitVec.toNat_ofNat, BitVec.toNat_ofNat, Nat.mod_eq_of_lt ha, Nat.mod_eq_of_lt hb]
  exact hLess

theorem changedRows_length (d : RowBits) : (changedRows d).length = popcount d := by
  rw [changedRows, List.length_map, popcount, List.countP_eq_length_filter]

/-- Two strictly ascending lists of rows with the same members are the same list. -/
theorem rows_eq_of_mem_iff {l l' : List Row} (h : l.Pairwise (fun a b => a.toNat < b.toNat))
    (h' : l'.Pairwise (fun a b => a.toNat < b.toNat)) (hMem : ∀ r, r ∈ l ↔ r ∈ l') : l = l' :=
  List.Pairwise.eq_of_mem_iff (r := (· < ·)) h h' hMem

theorem changedRows_zero : changedRows 0#32 = [] := by
  rw [List.eq_nil_iff_forall_not_mem]
  intro r hr
  rw [mem_changedRows, BitVec.getLsbD_zero] at hr
  contradiction

/-- The changed rows are the least of them and then those that are left when its bit is cleared (R121). -/
theorem changedRows_eq_cons {d : RowBits} (h : d ≠ 0#32) :
    changedRows d = leastRow d :: changedRows (setBit d (leastRow d).toNat false) := by
  obtain ⟨hSet, hLeast⟩ := leastRow_spec d h
  have hRest (r : Row) : r ∈ changedRows (setBit d (leastRow d).toNat false) ↔
      d.getLsbD r.toNat = true ∧ r ≠ leastRow d := by
    rw [mem_changedRows, getLsbD_setBit_false, Bool.and_eq_true, bne_iff_ne, ne_eq, BitVec.toNat_inj]
  refine rows_eq_of_mem_iff (changedRows_pairwise d) (List.pairwise_cons.mpr ⟨?_, changedRows_pairwise _⟩) fun r => ?_
  · intro r hr
    obtain ⟨hBit, hOther⟩ := (hRest r).mp hr
    by_contra hNotLess
    have hLess : r.toNat < (leastRow d).toNat :=
      lt_of_le_of_ne (Nat.not_lt.mp hNotLess) (fun hEq => hOther (BitVec.eq_of_toNat_eq hEq))
    rw [hLeast r.toNat hLess] at hBit
    contradiction
  · rw [mem_changedRows, List.mem_cons, hRest]
    by_cases hEq : r = leastRow d
    · simp [hEq, hSet]
    · simp [hEq]

/-! ### The tick -/

/-- The transitions a tick hands to the mapper: the rows of the active column whose sampled bit differs from the
snapshot (R162). -/
def tickTransitions (words : MuxAddr → Sense) (s : State) : List (Row × Column × Bool) :=
  transitionsOf s.activeColumn (sampleColumn words 0) (sampleColumn words 0 ^^^ s.snapAt s.activeColumn)

/-- The state a tick leaves (R162). -/
def tickNext (words : MuxAddr → Sense) (s : State) : State :=
  { transitionsNext (tickTransitions words s) (sampledState words s) with
    activeColumn := s.activeColumn + 1, phase := .idle }

theorem tick_eq (words : MuxAddr → Sense) (s : State) : tick words s = .next (tickNext words s) := tick_next words s

/-- What a tick does outside the mapper's own elements (R162). -/
theorem tickNext_frame (words : MuxAddr → Sense) (s : State) : tickNext words s =
    { sampledState words s with activeColumn := s.activeColumn + 1
                                phase := .idle
                                onSent := (tickNext words s).onSent
                                offSent := (tickNext words s).offSent
                                clampSeen := (tickNext words s).clampSeen
                                tx := (tickNext words s).tx } := by
  rw [tickNext, transitionsNext_frame]

@[simp] theorem tickNext_activeColumn (words : MuxAddr → Sense) (s : State) :
    (tickNext words s).activeColumn = s.activeColumn + 1 := rfl

@[simp] theorem tickNext_colDrive (words : MuxAddr → Sense) (s : State) :
    (tickNext words s).colDrive = onehot8 s.activeColumn := by
  rw [tickNext_frame]
  rfl

/-- A tick replaces the active column's snapshot with its sample and keeps the others (R120, R162). -/
theorem tickNext_snapAt (words : MuxAddr → Sense) (s : State) (c : Column) :
    (tickNext words s).snapAt c = if c = s.activeColumn then sampleColumn words 0 else s.snapAt c := by
  rw [tickNext_frame]
  exact snapAt_setSnap _ s.activeColumn c (sampleColumn words 0)

/-! ### Sequences of ticks -/

/-- The state a sequence of ticks leaves (R163). -/
def ticksNext : List (MuxAddr → Sense) → State → State
  | [], s => s
  | w :: ws, s => ticksNext ws (tickNext w s)

theorem ticks_eq (ws : List (MuxAddr → Sense)) (s : State) : ticks ws s = .next (ticksNext ws s) := by
  induction ws generalizing s with
  | nil => rfl
  | cons w ws ih => rw [ticks, tick_eq, andThen_next, ih, ticksNext]

/-- The next column is the column mod 8 (R102). -/
theorem column_succ_toNat (c : Column) : (c + 1).toNat = (c.toNat + 1) % 8 := BitVec.toNat_add c 1

theorem ticksNext_activeColumn (ws : List (MuxAddr → Sense)) (s : State) :
    (ticksNext ws s).activeColumn.toNat = (s.activeColumn.toNat + ws.length) % 8 := by
  induction ws generalizing s with
  | nil => exact (Nat.mod_eq_of_lt s.activeColumn.isLt).symm
  | cons w ws ih =>
    rw [ticksNext, ih, tickNext_activeColumn, column_succ_toNat, List.length_cons]
    omega

/-- Settles O11: every tick moves the active column on by one, and drives the one it finds. -/
theorem ticksScanTheColumnsInOrder : Obligations.TicksScanTheColumnsInOrder := by
  refine ⟨fun ws s => ⟨_, ticks_eq ws s, ticksNext_activeColumn ws s⟩, fun ws w =>
    ⟨_, _, ticks_eq ws State.reset, tick_eq w _, fun i hi => ?_⟩⟩
  have hColumn : (ticksNext ws State.reset).activeColumn.toNat = ws.length % 8 :=
    (ticksNext_activeColumn ws State.reset).trans (congrArg (· % 8) (Nat.zero_add ws.length))
  rw [tickNext_colDrive, onehot8_getLsbD _ i hi, hColumn]

/-- Settles O52: no bit differs, so the mapper is handed nothing, and the snapshot is replaced with itself. -/
theorem unchangedSampleCausesNoTransition : Obligations.UnchangedSampleCausesNoTransition := by
  intro words s hSame
  have hNone : tickTransitions words s = [] := by
    rw [tickTransitions, hSame, BitVec.xor_self, transitionsOf]
    exact congrArg (List.map _) changedRows_zero
  refine ⟨_, tick_eq words s, ?_, ?_, ?_, ?_, fun c => ?snapshots⟩
  case snapshots =>
    rw [tickNext_snapAt]
    split_ifs with hActive
    · rw [hSame, hActive]
    · rfl
  all_goals
    rw [tickNext, hNone]
    rfl

end Sys2Proof.Machine
end

section
/-! SUPPORT. The steps of a tick, phase after phase, and the big step TICK (42_change_detector.md R123;
45_scan_sequencer.md R162, R166). -/

namespace Sys2Proof.Machine

/-! ### The mapper looks at its own elements only -/

/-- The state with the elements that the mapper reads and writes taken from another one. -/
def State.withMapper (s m : State) : State :=
  { s with onSent := m.onSent, offSent := m.offSent, clampSeen := m.clampSeen, tx := m.tx }

/-- The mapper neither reads nor writes anything but its own elements (R135 to R139). -/
theorem transitionNext_withMapper (contact : Contact) (closed : Bool) (key : Nat) (s m : State) :
    transitionNext contact closed key (s.withMapper m) = s.withMapper (transitionNext contact closed key m) := by
  have hOn : (s.withMapper m).onSentAt key = m.onSentAt key := rfl
  have hOff : (s.withMapper m).offSentAt key = m.offSentAt key := rfl
  cases contact <;> cases closed <;> simp only [transitionNext, hOn, hOff]
  case make.false => split_ifs <;> rfl
  case make.true => split_ifs <;> rfl
  all_goals rfl

theorem transitionsNext_withMapper (ts : List (Row × Column × Bool)) (s m : State) :
    transitionsNext ts (s.withMapper m) = s.withMapper (transitionsNext ts m) := by
  induction ts generalizing m with
  | nil => rfl
  | cons x ts ih => rw [transitionsNext, transitionNext_withMapper, ih, transitionsNext]

/-! ### Runs -/

theorem runSteps_add (m n : Nat) (s : State) : runSteps (m + n) s = andThen (runSteps m s) (runSteps n) := by
  induction m generalizing s with
  | zero =>
    rw [Nat.zero_add]
    rfl
  | succ m ih =>
    rw [Nat.succ_add, runSteps, runSteps]
    cases step s with
    | next t => exact ih t
    | fault f => rfl
    | refused r => rfl

/-- A run of the block can be cut where a part of it ends. -/
theorem runSteps_add_of_next {m : Nat} {s t : State} (h : runSteps m s = .next t) (n : Nat) :
    runSteps (m + n) s = runSteps n t := by
  rw [runSteps_add, h, andThen_next]

/-- What is left of an undisturbed run is undisturbed. -/
theorem undisturbed_elapse {m n : Nat} {s t : State} (h : s.Undisturbed (m + n)) (hInputs : t.inputs = s.inputs)
    (hSteps : t.steps = s.steps) : (t.elapse m).Undisturbed n := by
  obtain ⟨-, hRst⟩ := h
  refine ⟨rfl, fun k hk => ?_⟩
  rw [levelsAt_elapse, levelsAt_congr hInputs hSteps]
  exact hRst (m + k) (Nat.add_lt_add_left hk m)

theorem undisturbed_of_le {m n : Nat} {s : State} (h : s.Undisturbed n) (hLe : m ≤ n) : s.Undisturbed m :=
  ⟨h.left, fun k hk => h.right k (Nat.lt_of_lt_of_le hk hLe)⟩

/-- The first step of an undisturbed run is the operation of the phase. -/
theorem runSteps_one {s : State} (h : s.Undisturbed 1) : runSteps 1 s = .next ((operationNext s.phase s).elapse 1) := by
  rw [runSteps, step_eq_operationNext h.left (h.right 0 Nat.zero_lt_one), andThen_next, runSteps]

/-! ### HANDLE -/

theorem changed_eq_zero_of_popcount {d : RowBits} (h : popcount d = 0) : d = 0#32 := by
  by_contra hChanged
  have hLength := changedRows_length d
  rw [changedRows_eq_cons hChanged, h, List.length_cons] at hLength
  contradiction

theorem popcount_eq_succ {d : RowBits} (h : d ≠ 0#32) :
    popcount d = popcount (setBit d (leastRow d).toNat false) + 1 := by
  rw [← changedRows_length, changedRows_eq_cons h, List.length_cons, changedRows_length]

theorem transitionsOf_zero (c : Column) (v : RowBits) : transitionsOf c v 0#32 = [] := by
  rw [transitionsOf, changedRows_zero, List.map_nil]

theorem transitionsOf_eq_cons (c : Column) (v : RowBits) {d : RowBits} (h : d ≠ 0#32) : transitionsOf c v d =
    (leastRow d, c, v.getLsbD (leastRow d).toNat) :: transitionsOf c v (setBit d (leastRow d).toNat false) := by
  rw [transitionsOf, changedRows_eq_cons h, List.map_cons, transitionsOf]

/-- The state in which the rows `d` are left to be handled, in phase `p`, with the mapper's elements of `m`. -/
def State.handledTo (s : State) (d : RowBits) (p : Phase) (m : State) : State :=
  ({ s with changed := d, phase := p }).withMapper m

/-- Consuming a row clears its bit and runs its transition on the mapper's elements (R121). -/
theorem consumeRow_eq_handledTo (r : Row) (s : State) :
    consumeRow r s = s.handledTo (setBit s.changed r.toNat false) s.phase
      (transitionNext (contactOf r) (s.rowVec.getLsbD r.toNat) (keyOf r s.activeColumn) s) := by
  rw [consumeRow, State.handledTo, ← transitionNext_withMapper]
  rfl

/-- From HANDLE the changed rows go to the mapper one a step, and one step more moves on (R121, R123). -/
theorem runSteps_handle (n : Nat) (s : State) (hPhase : s.phase = .handle) (hCount : popcount s.changed = n)
    (hUndisturbed : s.Undisturbed (n + 1)) : runSteps (n + 1) s = .next ((s.handledTo 0 .advance
      (transitionsNext (transitionsOf s.activeColumn s.rowVec s.changed) s)).elapse (n + 1)) := by
  have hFirst := runSteps_one (undisturbed_of_le hUndisturbed (Nat.le_add_left 1 n))
  rw [hPhase, operationNext] at hFirst
  induction n generalizing s with
  | zero =>
    have hNone := changed_eq_zero_of_popcount hCount
    rw [hFirst, if_pos hNone, State.handledTo, hNone, transitionsOf_zero]
    rfl
  | succ n ih =>
    have hChanged : s.changed ≠ 0#32 := by
      intro hNone
      rw [hNone] at hCount
      exact absurd (hCount.symm.trans (by decide)) n.succ_ne_zero
    have hCountLeft := Nat.succ.inj ((popcount_eq_succ hChanged).symm.trans hCount)
    rw [if_neg hChanged, consumeRow_eq_handledTo, hPhase] at hFirst
    rw [transitionsOf_eq_cons s.activeColumn s.rowVec hChanged, transitionsNext, Nat.add_comm (n + 1) 1,
      runSteps_add_of_next hFirst]
    generalize leastRow s.changed = r at hCountLeft ⊢
    generalize transitionNext (contactOf r) (s.rowVec.getLsbD r.toNat) (keyOf r s.activeColumn) s = m
    generalize setBit s.changed r.toNat false = d at hCountLeft ⊢
    have hRest : ((s.handledTo d .handle m).elapse 1).Undisturbed (n + 1) :=
      undisturbed_elapse (Nat.add_comm (n + 1) 1 ▸ hUndisturbed) rfl rfl
    have hNext := runSteps_one (undisturbed_of_le hRest (Nat.le_add_left 1 n))
    have hMapper (ts : List (Row × Column × Bool)) : transitionsNext ts ((s.handledTo d .handle m).elapse 1) =
        ((s.handledTo d .handle m).elapse 1).withMapper (transitionsNext ts m) :=
      transitionsNext_withMapper ts ((s.handledTo d .handle m).elapse 1) m
    rw [ih ((s.handledTo d .handle m).elapse 1) rfl hCountLeft hRest hNext, hMapper]
    exact congrArg Host.Outcome.next (elapse_elapse (s.handledTo 0 .advance _) 1 (n + 1))

/-- Settles O19: by induction over the number of changed rows, the least of which each step consumes. -/
theorem handleStepsConsumeEveryChangedRowOnce : Obligations.HandleStepsConsumeEveryChangedRowOnce := by
  refine ⟨mem_changedRows, fun d => ⟨changedRows_pairwise d, changedRows_length d⟩, fun s hPhase hUndisturbed => ?_⟩
  refine ⟨_, handleAll_next _ _, ?_⟩
  have hMapper := transitionsNext_withMapper (transitionsOf s.activeColumn s.rowVec s.changed) { s with changed := 0 } s
  rw [runSteps_handle _ s hPhase rfl hUndisturbed]
  exact congrArg (fun t : State => Host.Outcome.next ({ t with phase := .advance }.elapse (popcount s.changed + 1)))
    hMapper.symm

end Sys2Proof.Machine
end

section
/-! SUPPORT. The sampling steps of a tick, and the whole tick step by step (41_row_sampler.md R113; 45_scan_sequencer.md
R162, R166). -/

namespace Sys2Proof.Machine

/-- A run that has come to a state of the block goes on with the operation of that state's phase. -/
theorem runSteps_extend {m : Nat} {s t u : State} (hRun : runSteps m s = .next (t.elapse m))
    (hUndisturbed : s.Undisturbed (m + 1)) (hInputs : t.inputs = s.inputs) (hSteps : t.steps = s.steps)
    (hNext : operationNext t.phase (t.elapse m) = u.elapse m) : runSteps (m + 1) s = .next (u.elapse (m + 1)) := by
  have hLast := runSteps_one (undisturbed_elapse hUndisturbed hInputs hSteps)
  rw [State.elapse_phase, hNext, elapse_elapse] at hLast
  rw [runSteps_add_of_next hRun, hLast]

/-! ### Sampling -/

/-- The state after the sense word `w` was read at the next address (R110, R111, R112). -/
def addressRead (w : Sense) (s : State) : State :=
  { s with
    muxAddr := s.addrCur.extractLsb' 0 3
    rowVec := placeSense (s.addrCur.extractLsb' 0 3) w s.rowVec
    addrCur := s.addrCur + 1
    phase := if s.addrCur + 1 = 8 then .diff else .setAddr }

/-- The three steps of one address: set it, wait, read. The word is the one on the sense lines at the third. -/
theorem runSteps_address {s : State} (hPhase : s.phase = .setAddr) (hUndisturbed : s.Undisturbed 3) :
    runSteps 3 s = .next ((addressRead (s.levelsAt 2).sense s).elapse 3) := by
  have hSet := runSteps_one (undisturbed_of_le hUndisturbed (by decide : 1 ≤ 3))
  rw [hPhase, operationNext] at hSet
  have hSettle := runSteps_extend (u := { s with muxAddr := s.addrCur.extractLsb' 0 3, phase := .read }) hSet
    (undisturbed_of_le hUndisturbed (by decide)) rfl rfl rfl
  refine runSteps_extend hSettle hUndisturbed rfl rfl ?_
  have hLevels := levelsAt_elapse { s with muxAddr := s.addrCur.extractLsb' 0 3, phase := .read } 2 0
  rw [operationNext, State.levels, hLevels]
  rfl

/-- The state after the first `m` addresses of a tick were read (R112, R113). -/
def sampledTo (words : MuxAddr → Sense) (m : Nat) (s : State) : State :=
  { s with
    muxAddr := if m = 0 then s.muxAddr else BitVec.ofNat 3 (m - 1)
    addrCur := BitVec.ofNat 4 m
    rowVec := (muxOrder.take m).foldl (fun v a => placeSense a (words a) v) s.rowVec
    phase := if m = 8 then .diff else .setAddr }

/-- What one more address does to the counter and the multiplexer (R110, R112, R113). -/
theorem address_succ : ∀ m < 8, (BitVec.ofNat 4 m).extractLsb' 0 3 = BitVec.ofNat 3 m ∧
    BitVec.ofNat 4 m + 1 = BitVec.ofNat 4 (m + 1) ∧ (BitVec.ofNat 4 (m + 1) = 8 ↔ m + 1 = 8) ∧
    muxOrder.take (m + 1) = muxOrder.take m ++ [BitVec.ofNat 3 m] := by
  decide

theorem addressRead_sampledTo (words : MuxAddr → Sense) {m : Nat} (hm : m < 8) (s : State) :
    addressRead (words (BitVec.ofNat 3 m)) (sampledTo words m s) = sampledTo words (m + 1) s := by
  obtain ⟨hMux, hCounter, hLast, hTake⟩ := address_succ m hm
  simp only [addressRead, sampledTo, hMux, hCounter, hLast, hTake, List.foldl_append, List.foldl_cons, List.foldl_nil,
    Nat.succ_ne_zero, if_false, Nat.add_sub_cancel]

/-- The address phases of a tick, three steps an address (R113). -/
theorem runSteps_sample (words : MuxAddr → Sense) (s : State) (hPhase : s.phase = .setAddr) (hAddr : s.addrCur = 0)
    (hEntry : s.entry = none) (m : Nat) (hm : m ≤ 8) (hUndisturbed : s.Undisturbed (3 * m))
    (hWords : ∀ k < m, (s.levelsAt (3 * k + 2)).sense = words (BitVec.ofNat 3 k)) :
    runSteps (3 * m) s = .next ((sampledTo words m s).elapse (3 * m)) := by
  induction m with
  | zero =>
    have hStart : sampledTo words 0 s = s := by
      show { s with addrCur := 0, phase := .setAddr } = s
      rw [← hPhase, ← hAddr]
    rw [Nat.mul_zero, hStart, elapse_zero hEntry, runSteps]
  | succ m ih =>
    have hRest : ((sampledTo words m s).elapse (3 * m)).Undisturbed 3 := undisturbed_elapse hUndisturbed rfl rfl
    have hMore : ((sampledTo words m s).elapse (3 * m)).phase = .setAddr := if_neg (Nat.ne_of_lt hm)
    have hBefore := ih (Nat.le_of_succ_le hm) (undisturbed_of_le hUndisturbed (Nat.mul_le_mul_left 3 m.le_succ))
      (fun k hk => hWords k (Nat.lt_succ_of_lt hk))
    have hSense : (((sampledTo words m s).elapse (3 * m)).levelsAt 2).sense = words (BitVec.ofNat 3 m) := by
      rw [levelsAt_elapse]
      exact hWords m m.lt_succ_self
    have hAfter : addressRead (words (BitVec.ofNat 3 m)) ((sampledTo words m s).elapse (3 * m)) =
        (sampledTo words (m + 1) s).elapse (3 * m) :=
      congrArg (State.elapse · (3 * m)) (addressRead_sampledTo words hm s)
    rw [Nat.mul_succ, runSteps_add_of_next hBefore, runSteps_address hMore hRest, hSense, hAfter, elapse_elapse]

/-! ### The tick, step by step -/

/-- What the IDLE_WAIT and the SELECT_COLUMN of a tick leave (R100, R161). -/
def selectedState (s : State) : State :=
  { s with colDrive := onehot8 s.activeColumn, addrCur := 0, rowVec := 0x00000000, phase := .setAddr }

/-- What the DETECT_CHANGES of a tick leaves, whose eight sense words are `words` (R120). -/
def detectedState (words : MuxAddr → Sense) (s : State) : State :=
  { sampledState words s with
    changed := sampleColumn words 0 ^^^ s.snapAt s.activeColumn
    phase := .handle }

theorem runSteps_select {s : State} (hPhase : s.phase = .idle) (hTickReq : s.levels.tickReq = true)
    (hUndisturbed : s.Undisturbed 2) : runSteps 2 s = .next ((selectedState s).elapse 2) := by
  have hIdle := runSteps_one (undisturbed_of_le hUndisturbed (by decide : 1 ≤ 2))
  rw [hPhase, operationNext, hTickReq] at hIdle
  exact runSteps_extend (t := { s with phase := .select }) hIdle hUndisturbed rfl rfl rfl

/-- The column is sampled and compared 27 steps after IDLE (R113, R166). -/
theorem runSteps_detect {s : State} {words : MuxAddr → Sense} (hPhase : s.phase = .idle)
    (hTickReq : s.levels.tickReq = true) (hUndisturbed : s.Undisturbed 27)
    (hWords : ∀ m, words m = (s.levelsAt (4 + 3 * m.toNat)).sense) :
    runSteps 27 s = .next ((detectedState words s).elapse 27) := by
  have hSelect := runSteps_select hPhase hTickReq (undisturbed_of_le hUndisturbed (by decide))
  have hSample := runSteps_sample words ((selectedState s).elapse 2) rfl rfl rfl 8 (Nat.le_refl 8)
    (undisturbed_elapse (undisturbed_of_le hUndisturbed (by decide)) rfl rfl) ?words
  case words =>
    intro k hk
    rw [levelsAt_elapse, hWords, BitVec.toNat_ofNat, Nat.mod_eq_of_lt hk, Nat.add_comm (3 * k) 2, ← Nat.add_assoc]
    rfl
  have hSampled := (runSteps_add_of_next hSelect 24).trans hSample
  refine runSteps_extend (t := sampledTo words 8 (selectedState s)) (m := 26) ?_ hUndisturbed rfl rfl ?_
  · exact hSampled.trans (congrArg Host.Outcome.next (elapse_elapse (sampledTo words 8 (selectedState s)) 2 24))
  · rfl

/-- The mapper's part of a tick, run from the state before it (R162). -/
theorem tickNext_eq_withMapper (words : MuxAddr → Sense) (s : State) : tickNext words s =
    { (sampledState words s).withMapper (transitionsNext (tickTransitions words s) s) with
      activeColumn := s.activeColumn + 1, phase := .idle } := by
  rw [tickNext, ← transitionsNext_withMapper]
  rfl

/-- The changed rows are handled one a step and the column moves on (R121, R102, R166). -/
theorem runSteps_tick {s : State} {words : MuxAddr → Sense} {n : Nat} (hPhase : s.phase = .idle)
    (hTickReq : s.levels.tickReq = true) (hWords : ∀ m, words m = (s.levelsAt (4 + 3 * m.toNat)).sense)
    (hCount : popcount (sampleColumn words 0 ^^^ s.snapAt s.activeColumn) = n) (hUndisturbed : s.Undisturbed (29 + n)) :
    runSteps (29 + n) s = .next ((tickNext words s).elapse (29 + n)) := by
  have hDetect := runSteps_detect hPhase hTickReq (undisturbed_of_le hUndisturbed (by omega)) hWords
  have hRest : ((detectedState words s).elapse 27).Undisturbed (n + 1) :=
    undisturbed_elapse (undisturbed_of_le hUndisturbed (by omega)) rfl rfl
  have hMapper : transitionsNext (tickTransitions words s) ((detectedState words s).elapse 27) =
      ((detectedState words s).elapse 27).withMapper (transitionsNext (tickTransitions words s) s) :=
    transitionsNext_withMapper (tickTransitions words s) ((detectedState words s).elapse 27) s
  have hHandle : runSteps (n + 1) ((detectedState words s).elapse 27) = .next
      ((((detectedState words s).elapse 27).handledTo 0 .advance
        (transitionsNext (tickTransitions words s) ((detectedState words s).elapse 27))).elapse (n + 1)) :=
    runSteps_handle n _ rfl hCount hRest
  rw [hMapper] at hHandle
  have hHandled : runSteps (27 + (n + 1)) s = .next (((detectedState words s).handledTo 0 .advance
      (transitionsNext (tickTransitions words s) s)).elapse (27 + (n + 1))) :=
    ((runSteps_add_of_next hDetect (n + 1)).trans hHandle).trans
      (congrArg Host.Outcome.next (elapse_elapse ((detectedState words s).handledTo 0 .advance _) 27 (n + 1)))
  have hSteps : 29 + n = 27 + (n + 1) + 1 := by omega
  rw [hSteps] at hUndisturbed ⊢
  refine runSteps_extend hHandled hUndisturbed rfl rfl ?_
  rw [tickNext_eq_withMapper]
  rfl

/-- Settles O51: IDLE and SELECT, the eight addresses, DIFF, HANDLE over the changed rows, and ADVANCE. -/
theorem stepsOfATickAreTheBigStep : Obligations.StepsOfATickAreTheBigStep := by
  intro s hPhase hTickReq hUndisturbed
  refine ⟨_, tick_eq _ s, runSteps_tick hPhase hTickReq (fun _ => rfl) rfl hUndisturbed, rfl, ?_, ?_, ?_, ?_, ?snap,
    rfl⟩
  case snap =>
    rw [tickNext_snapAt, if_pos rfl, tickNext_frame]
    rfl
  all_goals
    rw [tickNext_frame]
    rfl

end Sys2Proof.Machine
end

section
/-! SUPPORT. One key among the transitions of a tick: the stuck note, and the first press after reset
(70_reset_and_hazards.md R202, R206). -/

namespace Sys2Proof.Machine

/-! ### The transitions of one key -/

/-- The transitions of a key among others. -/
def ofKey (key : Nat) (ts : List (Row × Column × Bool)) : List (Row × Column × Bool) :=
  ts.filter fun x => keyOf x.1 x.2.1 == key

/-- Two states in which the key has the same two flags. -/
def SameFlags (key : Nat) (s s' : State) : Prop :=
  s.onSentAt key = s'.onSentAt key ∧ s.offSentAt key = s'.offSentAt key

/-- What a transition makes of its key's flags depends on these flags (R140). -/
theorem sameFlags_of_self (contact : Contact) (closed : Bool) {key : Nat} {s s' : State} (hKey : key < 256)
    (h : SameFlags key s s') :
    SameFlags key (transitionNext contact closed key s) (transitionNext contact closed key s') := by
  obtain ⟨hOn, hOff⟩ := h
  refine ⟨?_, ?_⟩
  · rw [onSentAt_transitionNext_self contact closed s hKey, onSentAt_transitionNext_self contact closed s' hKey, hOn]
  · rw [offSentAt_transitionNext_self contact closed s hKey, offSentAt_transitionNext_self contact closed s' hKey, hOff]

theorem sameFlags_of_other (contact : Contact) (closed : Bool) {key key' : Nat} {s s' : State} (hKey : key' < 256)
    (hOther : key ≠ key') (h : SameFlags key s s') : SameFlags key (transitionNext contact closed key' s) s' := by
  obtain ⟨hOn, hOff⟩ := h
  obtain ⟨hOnKept, hOffKept⟩ := transitionNext_flags_of_ne contact closed s hKey hOther
  exact ⟨hOnKept.trans hOn, hOffKept.trans hOff⟩

/-- What a key sends, and what becomes of its flags, depends on its own transitions and flags alone (R140). -/
theorem mapper_ofKey (key : Nat) (ts : List (Row × Column × Bool)) {s s' : State} (h : SameFlags key s s') :
    (mapperTrace ts s).filter (fun e => e.1 == key) = mapperTrace (ofKey key ts) s' ∧
      SameFlags key (transitionsNext ts s) (transitionsNext (ofKey key ts) s') := by
  induction ts generalizing s s' with
  | nil => exact ⟨rfl, h⟩
  | cons x ts ih =>
    obtain ⟨r, c, closed⟩ := x
    rw [mapperTrace_cons, ofKey, List.filter_cons, List.filter_cons, transitionsNext]
    by_cases hSame : keyOf r c = key
    case pos =>
      subst hSame
      obtain ⟨hTrace, hFlags⟩ := ih (sameFlags_of_self (contactOf r) closed (keyOf_lt_256 r c) h)
      obtain ⟨hOn, hOff⟩ := h
      rw [if_pos (beq_self_eq_true _), if_pos (beq_self_eq_true _), mapperTrace_cons, hOn, hOff]
      exact ⟨congrArg (List.cons _) hTrace, hFlags⟩
    case neg =>
      have hNot : ¬ (keyOf r c == key) = true := by simpa using hSame
      rw [if_neg hNot, if_neg hNot]
      exact ih (sameFlags_of_other (contactOf r) closed (keyOf_lt_256 r c) (Ne.symm hSame) h)

/-! ### The two rows of a key -/

/-- A row is determined by its pair and its contact (R62). -/
theorem row_eq_of_pair_of_contact {r r' : Row} (hPair : r.toNat / 2 = r'.toNat / 2)
    (hContact : contactOf r = contactOf r') : r = r' := by
  have hParity : r.toNat % 2 = 1 ↔ r'.toNat % 2 = 1 := by
    rw [← contactOf_eq_brk_iff, ← contactOf_eq_brk_iff, hContact]
  exact BitVec.eq_of_toNat_eq (by omega)

/-- The changed rows of a key of which both rows changed: the make row and then the break row (R123). -/
theorem filter_changedRows_of_both {d : RowBits} {c : Column} {make brk : Row} (hMake : contactOf make = .make)
    (hBrk : contactOf brk = .brk) (hPair : make.toNat / 2 = brk.toNat / 2) (hMakeChanged : d.getLsbD make.toNat = true)
    (hBrkChanged : d.getLsbD brk.toNat = true) :
    (changedRows d).filter (fun r => keyOf r c == keyOf make c) = [make, brk] := by
  have hMakeEven := (contactOf_eq_make_iff make).mp hMake
  have hBrkOdd := (contactOf_eq_brk_iff brk).mp hBrk
  refine rows_eq_of_mem_iff ((changedRows_pairwise d).filter _) ?_ fun r => ?_
  · simp only [List.pairwise_cons, List.mem_singleton, List.not_mem_nil, false_imp_iff, implies_true, List.Pairwise.nil,
      and_true, forall_eq]
    omega
  · simp only [List.mem_filter, mem_changedRows, beq_iff_eq, keyOf_eq_iff, and_true, List.mem_cons, List.not_mem_nil,
      or_false]
    constructor
    · rintro ⟨-, hSamePair⟩
      cases hContact : contactOf r
      case make => exact .inl (row_eq_of_pair_of_contact hSamePair (hContact.trans hMake.symm))
      case brk => exact .inr (row_eq_of_pair_of_contact (hSamePair.trans hPair) (hContact.trans hBrk.symm))
    · rintro (rfl | rfl)
      · exact ⟨hMakeChanged, rfl⟩
      · exact ⟨hBrkChanged, hPair.symm⟩

/-- The transitions of a key of which a tick finds both rows closed that were open (R206). -/
theorem ofKey_tickTransitions {words : MuxAddr → Sense} {s : State} {make brk : Row} (hMake : contactOf make = .make)
    (hBrk : contactOf brk = .brk) (hPair : make.toNat / 2 = brk.toNat / 2)
    (hClosing : ∀ r ∈ [make, brk], (s.snapAt s.activeColumn).getLsbD r.toNat = false ∧
      (sampleColumn words 0).getLsbD r.toNat = true) :
    ofKey (keyOf make s.activeColumn) (tickTransitions words s) =
      [(make, s.activeColumn, true), (brk, s.activeColumn, true)] := by
  obtain ⟨⟨hMakeOpen, hMakeClosed⟩, ⟨hBrkOpen, hBrkClosed⟩, -⟩ :
      _ ∧ _ ∧ _ := by simpa only [List.forall_mem_cons] using hClosing
  have hRows := filter_changedRows_of_both (d := sampleColumn words 0 ^^^ s.snapAt s.activeColumn) (c := s.activeColumn)
    hMake hBrk hPair (by rw [BitVec.getLsbD_xor, hMakeOpen, hMakeClosed]; rfl)
    (by rw [BitVec.getLsbD_xor, hBrkOpen, hBrkClosed]; rfl)
  rw [ofKey, tickTransitions, transitionsOf, List.filter_map]
  refine (congrArg (List.map _) hRows).trans ?_
  rw [List.map_cons, List.map_cons, List.map_nil, hMakeClosed, hBrkClosed]

/-! ### The mapper's elements after a tick -/

theorem tickNext_tx (words : MuxAddr → Sense) (s : State) :
    (tickNext words s).tx = s.tx ++ (mapperTrace (tickTransitions words s) s).flatMap (fun e => e.2) := by
  rw [tickNext_eq_withMapper]
  exact transitionsNext_tx (tickTransitions words s) s

theorem tickNext_onSentAt (words : MuxAddr → Sense) (s : State) (key : Nat) :
    (tickNext words s).onSentAt key = (transitionsNext (tickTransitions words s) s).onSentAt key := by
  rw [tickNext_eq_withMapper]
  rfl

theorem tickNext_offSentAt (words : MuxAddr → Sense) (s : State) (key : Nat) :
    (tickNext words s).offSentAt key = (transitionsNext (tickTransitions words s) s).offSentAt key := by
  rw [tickNext_eq_withMapper]
  rfl

/-- The make row and the break row of a row pair (R62). -/
theorem exists_rows (p : RowPair) : ∃ make brk : Row, contactOf make = .make ∧ contactOf brk = .brk ∧
    make.toNat = 2 * p.toNat + 0 ∧ brk.toNat = 2 * p.toNat + 1 := by
  obtain ⟨make, hMakePair, hMake⟩ := exists_row .make p
  obtain ⟨brk, hBrkPair, hBrk⟩ := exists_row .brk p
  have hEven := (contactOf_eq_make_iff make).mp hMake
  have hOdd := (contactOf_eq_brk_iff brk).mp hBrk
  have hMakeHalf := pairOf_toNat make
  have hBrkHalf := pairOf_toNat brk
  rw [hMakePair] at hMakeHalf
  rw [hBrkPair] at hBrkHalf
  exact ⟨make, brk, hMake, hBrk, by omega, by omega⟩

/-- A make closure then a break closure of one key, from its flag onSent clear: the note-on, then nothing (R206). -/
theorem mapperTrace_press {make brk : Row} {c : Column} {s : State} (hMake : contactOf make = .make)
    (hBrk : contactOf brk = .brk) (hKey : keyOf brk c = keyOf make c) (hOn : s.onSentAt (keyOf make c) = false) :
    mapperTrace [(make, c, true), (brk, c, true)] s =
      [(keyOf make c, keyMessage (keyOf make c) true), (keyOf make c, [])] := by
  rw [mapperTrace_cons, mapperTrace_cons, hMake, hBrk, hKey, hOn]
  rfl

/-- Settles O33: of the pressed key the tick handles the make closure and then the break closure, which leave it rearmed
for the bounce. -/
theorem sameTickPressLeavesTheKeyRearmed : Obligations.SameTickPressLeavesTheKeyRearmed := by
  intro words s p (hOn : s.onSentAt (keyOfPair p s.activeColumn) = false) hClosing
  obtain ⟨make, brk, hMake, hBrk, hMakeRow, hBrkRow⟩ := exists_rows p
  have hKey : keyOf make s.activeColumn = keyOfPair p s.activeColumn := by rw [keyOf, keyOfPair]; omega
  have hSameKey : keyOf brk s.activeColumn = keyOf make s.activeColumn := by rw [keyOf, keyOf]; omega
  have hOfKey := ofKey_tickTransitions (words := words) (s := s) hMake hBrk (by omega) <| by
    simp only [List.forall_mem_cons, hMakeRow, hBrkRow]
    exact ⟨hClosing 0 (by decide), hClosing 1 (by decide), nofun⟩
  obtain ⟨hTrace, hOnAfter, hOffAfter⟩ :=
    mapper_ofKey (keyOf make s.activeColumn) (tickTransitions words s) (s := s) (s' := s) ⟨rfl, rfl⟩
  rw [hOfKey] at hTrace hOnAfter hOffAfter
  rw [mapperTrace_press hMake hBrk hSameKey (hKey ▸ hOn), hKey] at hTrace
  simp only [transitionsNext, hBrk, hSameKey] at hOnAfter hOffAfter
  rw [onSentAt_transitionNext_self .brk true _ (keyOf_lt_256 _ _), hKey, ← tickNext_onSentAt] at hOnAfter
  rw [offSentAt_transitionNext_self .brk true _ (keyOf_lt_256 _ _), hKey, ← tickNext_offSentAt] at hOffAfter
  obtain ⟨u, hBounce, hBytes⟩ := execAll_bounce hOnAfter hOffAfter
  exact ⟨_, _, u, rfl, hTrace, tick_eq words s, tickNext_tx words s, hOnAfter, hOffAfter, hBounce, hBytes⟩

end Sys2Proof.Machine
end

section
/-! SUPPORT. The first press of a contact after reset (70_reset_and_hazards.md section 1, R202). -/

namespace Sys2Proof.Machine

/-! ### A row that every tick of its column found open -/

/-- Of the ticks `ws`, the first of which scans column `a`, those of column `c` found row `r` open. -/
def FoundOpen (ws : List (MuxAddr → Sense)) (a c : Column) (r : Row) : Prop :=
  ∀ (j : Nat) (h : j < ws.length), (a.toNat + j) % 8 = c.toNat → (sampleColumn ws[j] 0).getLsbD r.toNat = false

theorem foundOpen_cons {w : MuxAddr → Sense} {ws : List (MuxAddr → Sense)} {a c : Column} {r : Row}
    (h : FoundOpen (w :: ws) a c r) :
    (c = a → (sampleColumn w 0).getLsbD r.toNat = false) ∧ FoundOpen ws (a + 1) c r := by
  refine ⟨fun hActive => h 0 (Nat.succ_pos _) ?_, fun j hj hColumn => h (j + 1) (Nat.succ_lt_succ hj) ?_⟩
  · rw [hActive]
    exact Nat.mod_eq_of_lt a.isLt
  · rw [column_succ_toNat] at hColumn
    omega

/-- The snapshot of such a row still has it open (R120). -/
theorem ticksNext_snapAt_open {ws : List (MuxAddr → Sense)} {s : State} {c : Column} {r : Row}
    (hOpen : FoundOpen ws s.activeColumn c r) (hSnap : (s.snapAt c).getLsbD r.toNat = false) :
    ((ticksNext ws s).snapAt c).getLsbD r.toNat = false := by
  induction ws generalizing s with
  | nil => exact hSnap
  | cons w ws ih =>
    obtain ⟨hFirst, hRest⟩ := foundOpen_cons hOpen
    refine ih hRest ?_
    rw [tickNext_snapAt]
    split_ifs with hActive
    · exact hFirst hActive
    · exact hSnap

/-- A tick hands a make closure of a key to the mapper only where it found that key's make row closed (R134, R162). -/
theorem noMakeClosure_tickTransitions {w : MuxAddr → Sense} {s : State} {c : Column} {r : Row}
    (hMake : contactOf r = .make) (hOpen : c = s.activeColumn → (sampleColumn w 0).getLsbD r.toNat = false) :
    NoMakeClosure (keyOf r c) (tickTransitions w s) := by
  intro x hx hKey hContact
  obtain ⟨q, -, rfl⟩ := List.mem_map.mp hx
  obtain ⟨hPair, hColumn⟩ := (keyOf_eq_iff q r s.activeColumn c).mp hKey
  obtain rfl := row_eq_of_pair_of_contact hPair (hContact.trans hMake.symm)
  exact hOpen hColumn.symm

/-- The flag onSent of such a row's key stays clear (R138). -/
theorem ticksNext_onSentAt_clear {ws : List (MuxAddr → Sense)} {s : State} {c : Column} {r : Row}
    (hMake : contactOf r = .make) (hOpen : FoundOpen ws s.activeColumn c r) (hClear : s.onSentAt (keyOf r c) = false) :
    (ticksNext ws s).onSentAt (keyOf r c) = false := by
  induction ws generalizing s with
  | nil => exact hClear
  | cons w ws ih =>
    obtain ⟨hFirst, hRest⟩ := foundOpen_cons hOpen
    refine ih hRest ?_
    rw [tickNext_onSentAt]
    exact onSentAt_transitionsNext_of_clear (noMakeClosure_tickTransitions hMake hFirst) hClear

/-! ### The note-on among the messages of a tick -/

/-- The first make closure of a key whose flag onSent is clear sends its note-on, whatever comes before (R138). -/
theorem noteOn_mem_mapperTrace {ts : List (Row × Column × Bool)} {s : State} {r : Row} {c : Column}
    (hMake : contactOf r = .make) (hMem : (r, c, true) ∈ ts) (hClear : s.onSentAt (keyOf r c) = false) :
    (keyOf r c, keyMessage (keyOf r c) true) ∈ mapperTrace ts s := by
  induction ts generalizing s with
  | nil => exact absurd hMem List.not_mem_nil
  | cons x ts ih =>
    obtain ⟨q, b, closed⟩ := x
    rw [mapperTrace_cons, List.mem_cons]
    by_cases hClosure : keyOf q b = keyOf r c ∧ contactOf q = .make ∧ closed = true
    · obtain ⟨hKey, hContact, rfl⟩ := hClosure
      left
      rw [hKey, hContact, hClear]
      rfl
    · right
      have hRest : (r, c, true) ∈ ts := by
        refine (List.mem_cons.mp hMem).resolve_left fun hEq => hClosure ?_
        obtain ⟨rfl, rfl, rfl⟩ : r = q ∧ c = b ∧ true = closed := by simpa using hEq
        exact ⟨rfl, hMake, rfl⟩
      refine ih hRest (onSentAt_transitionNext_of_clear (keyOf_lt_256 q b) (fun hKey hContact => ?_) hClear)
      exact Bool.eq_false_iff.mpr fun hClosed => hClosure ⟨hKey, hContact, hClosed⟩

/-- A transition sends its key's message or nothing (R136 to R139). -/
theorem transitionBytes_cases (contact : Contact) (closed : Bool) (key : Nat) (onSent offSent : Bool) :
    transitionBytes contact closed key onSent offSent = [] ∨
      ∃ on, transitionBytes contact closed key onSent offSent = keyMessage key on := by
  cases contact
  case brk => exact .inl rfl
  case make =>
    cases closed <;> simp only [transitionBytes] <;> split_ifs
    exacts [.inl rfl, .inr ⟨false, rfl⟩, .inl rfl, .inr ⟨true, rfl⟩]

/-- The bytes of a trace read as whole messages, those of its entries among them (R44, R70). -/
theorem readMessages_mapperTrace (ts : List (Row × Column × Bool)) (s : State) :
    ∃ ms, readMessages ((mapperTrace ts s).flatMap (fun e => e.2)) = .ok ms ∧
      ∀ key on, (key, keyMessage key on) ∈ mapperTrace ts s → messageInstr on (channelOf key) (pitchOf key) ∈ ms := by
  induction ts generalizing s with
  | nil => exact ⟨[], rfl, fun _ _ hMem => absurd hMem List.not_mem_nil⟩
  | cons x ts ih =>
    obtain ⟨r, c, closed⟩ := x
    obtain ⟨ms, hRead, hMessages⟩ := ih (transitionNext (contactOf r) closed (keyOf r c) s)
    rw [mapperTrace_cons, List.flatMap_cons]
    obtain hNothing | ⟨on, hMessage⟩ :=
      transitionBytes_cases (contactOf r) closed (keyOf r c) (s.onSentAt (keyOf r c)) (s.offSentAt (keyOf r c))
    · rw [hNothing]
      refine ⟨ms, hRead, fun key on hMem => hMessages key on ((List.mem_cons.mp hMem).resolve_left fun hEq => ?_)⟩
      exact keyMessage_ne_nil key on (Prod.mk.inj hEq).right
    · rw [hMessage]
      refine ⟨messageInstr on (channelOf (keyOf r c)) (pitchOf (keyOf r c)) :: ms, ?_, fun key on' hMem => ?_⟩
      · rw [readMessages_append _ _ _ (readMessages_keyMessage (keyOf r c) on), hRead]
        rfl
      · obtain hEq | hMem := List.mem_cons.mp hMem
        · obtain ⟨rfl, hBytes⟩ := Prod.mk.inj hEq
          obtain rfl := keyMessage_inj hBytes
          exact List.mem_cons_self
        · exact List.mem_cons_of_mem _ (hMessages key on' hMem)

/-- Settles O37: the snapshot still has the row open and the key's flag is still clear, so the row is handed on as
closed, and its key's first make closure sends the note-on. -/
theorem firstPressAfterResetIsObserved : Obligations.FirstPressAfterResetIsObserved := by
  intro earlier words r c hColumn hEarlier hClosed
  have hActive : (ticksNext earlier State.reset).activeColumn = c := by
    apply BitVec.eq_of_toNat_eq
    rw [ticksNext_activeColumn, hColumn]
    exact congrArg (· % 8) (Nat.zero_add _)
  have hOpen : FoundOpen earlier State.reset.activeColumn c r := fun j hj hTick =>
    hEarlier j hj ((congrArg (· % 8) (Nat.zero_add j)).symm.trans hTick)
  have hSnap := ticksNext_snapAt_open hOpen (by rw [snapAt_reset]; exact BitVec.getLsbD_zero)
  have hHandled : (r, c, true) ∈ transitionsOf c (sampleColumn words 0)
      (sampleColumn words 0 ^^^ (ticksNext earlier State.reset).snapAt c) := by
    refine List.mem_map.mpr ⟨r, ?_, by rw [hClosed]⟩
    rw [mem_changedRows, BitVec.getLsbD_xor, hClosed, hSnap]
    rfl
  refine ⟨_, _, ticks_eq earlier State.reset, tick_eq words _, hActive, hHandled, fun hMake => ?noteOn⟩
  case noteOn =>
    have hClear := ticksNext_onSentAt_clear hMake hOpen (onSentAt_reset _)
    have hMem : (r, c, true) ∈ tickTransitions words (ticksNext earlier State.reset) := by
      rw [tickTransitions, hActive]
      exact hHandled
    obtain ⟨ms, hRead, hMessages⟩ :=
      readMessages_mapperTrace (tickTransitions words (ticksNext earlier State.reset)) (ticksNext earlier State.reset)
    have hTx := tickNext_tx words (ticksNext earlier State.reset)
    rw [txPresentedSince_of_append _ _ _ hTx]
    exact ⟨ms, hTx, hRead, hMessages _ true (noteOn_mem_mapperTrace hMake hMem hClear)⟩

end Sys2Proof.Machine
end
